-- ==== Sys2Proof/Word.lean ====
section
/-! DEFINITION. The word types of the block: the fixed-width bit fields of the spec. Registers whose width is a
parameter of the instance are natural numbers with the width applied where the spec applies it (00_scope.md R11). -/

namespace Sys2Proof

/-- One bit of a port or register (00_scope.md R10). -/
abbrev Bit := BitVec 1

/-- PinSample, `DT` in bit 1 and `CLK` in bit 0 (30_encoding.md R71). Also a configuration address (20_memory.md R50). -/
abbrev Sample := BitVec 2

/-- A 2-bit word address of the configuration register space (20_memory.md R50). -/
abbrev CfgAddr := BitVec 2

/-- TransitionHistory nibble: previous sample in bits 3:2, current sample in bits 1:0 (30_encoding.md R72). -/
abbrev Nibble := BitVec 4

/-- RotationCode byte: older valid nibble in bits 7:4, newer in bits 3:0 (30_encoding.md R73). -/
abbrev CodeByte := BitVec 8

/-- A word of the configuration register space (20_memory.md R50). -/
abbrev CfgWord := BitVec 16

/-- One cycle command, UPD in bit 19, WE in bit 18, WA in bits 17:16, WD in bits 15:0 (30_encoding.md R77). -/
abbrev Cmd20 := BitVec 20

end Sys2Proof
end

