-- ==== Sys2Proof/Syntax.lean ====
section
/-! DEFINITION. The eight cycle commands of 30_encoding.md R79, one constructor per row of the opcode table. The
operands are those of the assembler syntax (R84): an imm16 and, for a reserved write, its address. Don't-care bits are
not part of a command's meaning and are no operands. -/

namespace Sys2Proof

/-- The cycle commands (30_encoding.md R79). -/
inductive Instr where
  /-- NOP (43_host_ops.md R161). -/
  | nop
  /-- WR_INTERVAL: WD is the new interval in ms (R163). -/
  | wrInterval (wd : CfgWord)
  /-- WR_CTRL: WD, of which only bit 0 is used (R164). -/
  | wrCtrl (wd : CfgWord)
  /-- WR_RSVD: WA (2 or 3, see `Instr.wf`) and WD, which is ignored (R165). -/
  | wrRsvd (wa : CfgAddr) (wd : CfgWord)
  /-- UPDATE (41_decoder.md R120). -/
  | update
  /-- UPDATE_WR_INTERVAL (43_host_ops.md R167). -/
  | updateWrInterval (wd : CfgWord)
  /-- UPDATE_WR_CTRL (R168). -/
  | updateWrCtrl (wd : CfgWord)
  /-- UPDATE_WR_RSVD (R169). -/
  | updateWrRsvd (wa : CfgAddr) (wd : CfgWord)
  deriving DecidableEq, Repr

end Sys2Proof
end

