-- ==== Sys2Proof/Config.lean ====
section
/-! DEFINITION. What an instance fixes (the parameters of 00_scope.md R8) and the free values of the model: opaque
constants without a value that any proof could see. -/

namespace Sys2Proof

/-- The parameters of a block instance (00_scope.md R8). They are held in State, constant under every step, so that a
statement about every state is a statement about every instance (log entry 3). -/
structure Params where
  /-- P_DT_HIGH_ON_CW: the polarity flag. -/
  dtHighOnCw : Bool
  /-- STEP_W: width of STEPS. -/
  stepW : Nat
  /-- SPEED_W: width of SPEED and EV_SPEED. -/
  speedW : Nat
  /-- TIME_W: width of `now_ms` and LAST_T. -/
  timeW : Nat
  /-- SYNC_STAGES: number of synchroniser stages. -/
  syncStages : Nat
  deriving DecidableEq, Repr

/-- The default instance of 00_scope.md R8. -/
def Params.default : Params :=
  { dtHighOnCw := false, stepW := 16, speedW := 32, timeW := 32, syncStages := 2 }

/-- DESIGN CHOICE (log entry 4), safe. The level captured at the n-th capture edge from a `pin_dt` that changes inside
its capture window: a draw of either level (20_memory.md R61). -/
opaque Config.captureDt : Nat → Bit

/-- DESIGN CHOICE (log entry 4), safe. As `Config.captureDt`, for `pin_clk`. -/
opaque Config.captureClk : Nat → Bit

/-- DEDUCED (log entry 5), safe. The content of the k-th register before the first reset: any value
(10_state.md R37, 70_reset_and_hazards.md R202). -/
opaque Config.powerUp : Nat → Nat

/-- DESIGN CHOICE (log entry 6), safe. The quotient of a boundary whose INTERVAL is 0, as a function of STEPS. Only a
state that no reset produced can have INTERVAL = 0 (10_state.md R28, 42_speed.md R140). -/
opaque Config.quotientByZero : Nat → Nat

end Sys2Proof
end

