-- ==== Sys2Proof/WellFormed.lean ====
section
/-! DEFINITION. Which commands have an encoding, and which parameters an instance may have. -/

namespace Sys2Proof

/-- Addresses 2 and 3 are the reserved ones (20_memory.md R51): bit 1 of the address is set. -/
def CfgAddr.reserved (wa : CfgAddr) : Bool := wa.getLsbD 1

/-- A command is well formed when it is a line of 30_encoding.md R84: the address of a reserved write is 2 or 3. -/
def Instr.wf : Instr → Bool
  | .nop => true
  | .wrInterval _ => true
  | .wrCtrl _ => true
  | .wrRsvd wa _ => CfgAddr.reserved wa
  | .update => true
  | .updateWrInterval _ => true
  | .updateWrCtrl _ => true
  | .updateWrRsvd wa _ => CfgAddr.reserved wa

/-- The parameter constraints of 00_scope.md R8 and R9. A model refuses parameters that break them (R9, D6, log
entry 3). -/
def Params.ok (p : Params) : Bool :=
  decide (1 ≤ p.stepW) && decide (p.stepW + 10 ≤ p.speedW) && decide (16 ≤ p.timeW)

end Sys2Proof
end

