-- ==== Sys2Proof/Decode.lean ====
section
/-! DEFINITION. CMD20 (30_encoding.md R77 to R83): the decoder, total on the 2^20 command words, and after it the
encoder. The opcode map of R79 stands as a table beside them. -/

namespace Sys2Proof

/-- CMD20 bit 19, UPD (30_encoding.md R77). -/
def Cmd20.upd (w : Cmd20) : Bit := w.extractLsb' 19 1

/-- CMD20 bit 18, WE (R77). -/
def Cmd20.we (w : Cmd20) : Bit := w.extractLsb' 18 1

/-- CMD20 bits 17:16, WA (R77). -/
def Cmd20.wa (w : Cmd20) : CfgAddr := w.extractLsb' 16 2

/-- CMD20 bits 15:0, WD (R77, R78: used unchanged). -/
def Cmd20.wd (w : Cmd20) : CfgWord := w.extractLsb' 0 16

/-- `CMD20 = {UPD, WE, WA, WD}` (R77). -/
def Cmd20.ofFields (upd we : Bit) (wa : CfgAddr) (wd : CfgWord) : Cmd20 := upd ++ we ++ wa ++ wd

/-- UPD and WE choose the class, WA the register of a write (30_encoding.md R79). -/
def decodeFields (upd we : Bit) (wa : CfgAddr) (wd : CfgWord) : Instr :=
  if upd = 0#1 then
    if we = 0#1 then .nop
    else if wa = 0#2 then .wrInterval wd
    else if wa = 1#2 then .wrCtrl wd
    else .wrRsvd wa wd
  else
    if we = 0#1 then .update
    else if wa = 0#2 then .updateWrInterval wd
    else if wa = 1#2 then .updateWrCtrl wd
    else .updateWrRsvd wa wd

/-- The decoder: every command word is a command (30_encoding.md R80, R81). -/
def decode (w : Cmd20) : Instr := decodeFields w.upd w.we w.wa w.wd

/-- Why a number is no command word. -/
inductive DecodeReject where
  /-- DEDUCED (log entry 10), safe. A number with a bit above bit 19: CMD20 has 20 bits and every command is exactly one
  CMD20 word (30_encoding.md R77, R83). -/
  | widerThanCmd20 (w : Nat)
  deriving DecidableEq, Repr

/-- Decoding of any number, as the bits of one command. -/
def decodeWord (w : Nat) : Except DecodeReject Instr :=
  if w < 2 ^ 20 then .ok (decode (BitVec.ofNat 20 w)) else .error (.widerThanCmd20 w)

/-- The host's view of the decoder: the instruction read from the `nbits` low bits of `w`, numbered as
spec/opcode_table.json numbers them, every bit above them 0. -/
def decodeTableWord (nbits w : Nat) : Option Instr :=
  match decodeWord (w % 2 ^ nbits) with
  | .ok i => some i
  | .error _ => none

/-- The encoder, from the rows of 30_encoding.md R79, with 0 for every don't-care bit (R84). -/
def encode : Instr → Cmd20
  | .nop => Cmd20.ofFields 0#1 0#1 0#2 0#16
  | .wrInterval wd => Cmd20.ofFields 0#1 1#1 0#2 wd
  | .wrCtrl wd => Cmd20.ofFields 0#1 1#1 1#2 wd
  | .wrRsvd wa wd => Cmd20.ofFields 0#1 1#1 wa wd
  | .update => Cmd20.ofFields 1#1 0#1 0#2 0#16
  | .updateWrInterval wd => Cmd20.ofFields 1#1 1#1 0#2 wd
  | .updateWrCtrl wd => Cmd20.ofFields 1#1 1#1 1#2 wd
  | .updateWrRsvd wa wd => Cmd20.ofFields 1#1 1#1 wa wd

/-- A row of the opcode map. -/
structure OpRow where
  /-- The row's mnemonic. -/
  mnemonic : String
  /-- The value of the fixed bits. -/
  fixed : Cmd20
  /-- The mask of the fixed bits. -/
  mask : Cmd20
  deriving DecidableEq, Repr

/-- A command word selects a row when `w & mask == match` (30_encoding.md R79). -/
def OpRow.selects (r : OpRow) (w : Cmd20) : Bool := w &&& r.mask == r.fixed

/-- The opcode map of 30_encoding.md R79. -/
def opcodeMap : List OpRow := [
  { mnemonic := "NOP",                fixed := 0x00000#20, mask := 0xC0000#20 },
  { mnemonic := "WR_INTERVAL",        fixed := 0x40000#20, mask := 0xF0000#20 },
  { mnemonic := "WR_CTRL",            fixed := 0x50000#20, mask := 0xF0000#20 },
  { mnemonic := "WR_RSVD",            fixed := 0x60000#20, mask := 0xE0000#20 },
  { mnemonic := "UPDATE",             fixed := 0x80000#20, mask := 0xC0000#20 },
  { mnemonic := "UPDATE_WR_INTERVAL", fixed := 0xC0000#20, mask := 0xF0000#20 },
  { mnemonic := "UPDATE_WR_CTRL",     fixed := 0xD0000#20, mask := 0xF0000#20 },
  { mnemonic := "UPDATE_WR_RSVD",     fixed := 0xE0000#20, mask := 0xE0000#20 }]

/-- The mnemonic of a command (30_encoding.md R79). -/
def Instr.mnemonic : Instr → String
  | .nop => "NOP"
  | .wrInterval _ => "WR_INTERVAL"
  | .wrCtrl _ => "WR_CTRL"
  | .wrRsvd _ _ => "WR_RSVD"
  | .update => "UPDATE"
  | .updateWrInterval _ => "UPDATE_WR_INTERVAL"
  | .updateWrCtrl _ => "UPDATE_WR_CTRL"
  | .updateWrRsvd _ _ => "UPDATE_WR_RSVD"

end Sys2Proof
end

