-- ==== Sys2Proof/Machine/State.lean ====
section
/-! DEFINITION. The state of the block (10_state.md R22), the input ports as the environment drives them (R33), the
outputs (R34), and the state right after reset (70_reset_and_hazards.md R201). -/

namespace Sys2Proof.Machine

/-- The level of an encoder pin at a clock edge (10_state.md R33). -/
inductive PinLevel where
  /-- A stable 0. -/
  | low
  /-- A stable 1. -/
  | high
  /-- The pin changes inside the setup or hold window of this edge: the level captured is a draw (20_memory.md R61). -/
  | changing
  deriving DecidableEq, Repr

/-- The direction of a step (30_encoding.md R76). -/
inductive Direction where
  /-- Clockwise. -/
  | cw
  /-- Counter-clockwise. -/
  | ccw
  deriving DecidableEq, Repr

/-- The input ports other than `clk`, as they stand at one rising edge (10_state.md R33). -/
structure Ports where
  /-- `rst_n`, active low. -/
  rstN : Bit
  /-- `cmd_upd`, CMD20 bit 19. -/
  cmdUpd : Bit
  /-- `cmd_we`, CMD20 bit 18. -/
  cmdWe : Bit
  /-- `cmd_wa`, CMD20 bits 17:16. -/
  cmdWa : CfgAddr
  /-- `cmd_wd`, CMD20 bits 15:0. -/
  cmdWd : CfgWord
  /-- `pin_clk`. -/
  pinClk : PinLevel
  /-- `pin_dt`. -/
  pinDt : PinLevel
  /-- `now_ms`; the port carries its low TIME_W bits (log entry 7). -/
  nowMs : Nat
  /-- `rd_addr`, read combinationally (20_memory.md R53, log entry 9). -/
  rdAddr : CfgAddr
  deriving DecidableEq, Repr

/-- DESIGN CHOICE (log entry 2), unsafe. Ports with nothing going on: reset released, a NOP on the command port, both
pins low, time 0 (30_encoding.md R84 starts a program with pins and time 0). -/
def Ports.quiet : Ports :=
  { rstN := 1#1, cmdUpd := 0#1, cmdWe := 0#1, cmdWa := 0#2, cmdWd := 0#16, pinClk := .low, pinDt := .low, nowMs := 0,
    rdAddr := 0#2 }

/-- The outputs of the block (10_state.md R34). No pad output enable exists. -/
structure Outputs where
  /-- `step_pulse`. -/
  stepPulse : Bit
  /-- `step_dir`, 0 = CW, 1 = CCW. -/
  stepDir : Bit
  /-- `step_speed`, SPEED_W bits. -/
  stepSpeed : Nat
  /-- `pad_pullup_en`, to both pads. -/
  padPullupEn : Bit
  /-- `rd_data`. -/
  rdData : CfgWord
  deriving DecidableEq, Repr

/-- The state. The registers are those of 10_state.md R22; a register of parametric width is a natural number that
the operations keep inside its width (log entry 7). `params` is the instance (log entry 3), `ports` and `pending` are
what the environment drives (log entry 1), `draws` indexes the free captures (log entry 4). -/
structure State where
  /-- The parameters of the instance (00_scope.md R8). -/
  params : Params
  /-- HIST (R23). -/
  hist : Nibble
  /-- CODE (R24). -/
  code : CodeByte
  /-- STEPS, STEP_W bits (R25). -/
  steps : Nat
  /-- LAST_T, TIME_W bits (R26). -/
  lastT : Nat
  /-- SPEED, SPEED_W bits (R27). -/
  speed : Nat
  /-- INTERVAL (R28). -/
  interval : CfgWord
  /-- CTRL; bit 0 is PULLUP, bits 15:1 are reserved (R29). -/
  ctrl : CfgWord
  /-- SYNC[1], SYNC[2], …, SYNC[SYNC_STAGES] in this order (R30). -/
  sync : List Sample
  /-- EV_VALID (R31). -/
  evValid : Bit
  /-- EV_DIR (R31). -/
  evDir : Bit
  /-- EV_SPEED, SPEED_W bits (R31). -/
  evSpeed : Nat
  /-- The input ports at the coming edge. -/
  ports : Ports
  /-- The input ports at the edges after it. -/
  pending : List Ports
  /-- How many edges have captured the pins. -/
  draws : Nat
  deriving DecidableEq, Repr

/-- No fault exists: no command word, operand value, pin sequence or time value makes the block trap, halt or stop
(60_exceptions.md R180). The type has no constructor, so that no step of the model can fault. -/
inductive Fault where
  deriving DecidableEq, Repr

/-- Why the model gives no next state. -/
inductive Refusal where
  /-- Raised by `exec` alone, for a command that has no meaning yet; safe. No arm of `exec` raises it. -/
  | notModelled (mnemonic : String)
  /-- Raised by every edge of an instance whose parameters break 00_scope.md R8 or R9; R9 and 92_eei_decisions.md D6 say
  that a model must refuse them, and STEP_W = 0 is log entry 3; safe. -/
  | badParameters
  deriving DecidableEq, Repr

/-- The state after a reset edge of the instance `p` (70_reset_and_hazards.md R201), with the given ports driven. -/
def State.afterReset (p : Params) (ports : Ports) (pending : List Ports) : State :=
  { params := p
    hist := 0x0#4
    code := 0x00#8
    steps := 0
    lastT := 0
    speed := 0
    interval := 100#16
    ctrl := 0x0000#16
    sync := List.replicate p.syncStages 0b00#2
    evValid := 0#1
    evDir := 0#1
    evSpeed := 0
    ports := ports
    pending := pending
    draws := 0 }

/-- The default instance right after reset (70_reset_and_hazards.md R201, 00_scope.md R8), with quiet ports and nothing
pending (log entry 2). -/
def State.reset : State := State.afterReset Params.default Ports.quiet []

end Sys2Proof.Machine
end

