-- ==== Sys2Proof/Machine/Ops.lean ====
section
/-! DEFINITION. The operations every command shares: the arithmetic of 00_scope.md R11, the updates of the state, one
for each way the spec writes a register, the configuration space, reset, the end of an edge, and the outputs. The block
has no exceptions (60_exceptions.md R180, R187), so no operation takes one or returns from one. -/

namespace Sys2Proof.Machine

/-! ### Arithmetic (00_scope.md R11) -/

/-- `trunc_N(v)`: `v mod 2^N`. -/
def trunc (n v : Nat) : Nat := v % 2 ^ n

/-- `a -_N b`: the unsigned wrap-around difference `(a - b) mod 2^N`. -/
def wrapSub (n a b : Nat) : Nat := (a + (2 ^ n - b % 2 ^ n)) % 2 ^ n

/-! ### Updates of the state -/

/-- A write of HIST (41_decoder.md R110). -/
def State.setHist (s : State) (h : Nibble) : State := { s with hist := h }

/-- A write of CODE (41_decoder.md R111). -/
def State.setCode (s : State) (c : CodeByte) : State := { s with code := c }

/-- The three writes of a boundary: SPEED takes `v`, STEPS is cleared, LAST_T takes `now` (42_speed.md R140). -/
def State.closeWindow (s : State) (v now : Nat) : State := { s with speed := v, steps := 0, lastT := now }

/-- The writes of step accounting: STEPS takes `n`, SPEED takes `v` (42_speed.md R145). -/
def State.setCount (s : State) (n v : Nat) : State := { s with steps := n, speed := v }

/-- EV_VALID <- 0; EV_DIR and EV_SPEED hold (41_decoder.md R115). -/
def State.clearPulse (s : State) : State := { s with evValid := 0#1 }

/-- The step event: EV_VALID <- 1, EV_DIR <- `dir`, EV_SPEED <- SPEED (41_decoder.md R115). -/
def State.raisePulse (s : State) (dir : Bit) : State := { s with evValid := 1#1, evDir := dir, evSpeed := s.speed }

/-- A write of INTERVAL (43_host_ops.md R163). -/
def State.setInterval (s : State) (v : CfgWord) : State := { s with interval := v }

/-- `CTRL.PULLUP <- b`; the other bits of CTRL hold (43_host_ops.md R162, R164). -/
def State.setPullup (s : State) (b : Bit) : State :=
  { s with ctrl := (s.ctrl &&& 0xFFFE#16) ||| b.setWidth 16 }

/-- The synchroniser shift (10_state.md R30): `pins` enters SYNC[1], SYNC[SYNC_STAGES] drops out. With no stage nothing
is kept. The edge counts as a capture, so a later draw is another one (log entry 4). -/
def State.shiftSync (s : State) (pins : Sample) : State :=
  { s with sync := (pins :: s.sync).take s.params.syncStages, draws := s.draws + 1 }

/-- After an edge the environment drives the next listed port values. DESIGN CHOICE (log entry 1), unsafe: with nothing
listed, the ports hold their levels. -/
def State.nextInputs (s : State) : State := { s with ports := s.pending.headD s.ports, pending := s.pending.tail }

/-- Drive the ports for the coming edge. -/
def State.withPorts (s : State) (p : Ports) : State := { s with ports := p }

/-! ### The configuration register space (20_memory.md R50 to R56) -/

/-- CTRL.PULLUP (10_state.md R29). -/
def State.pullup (s : State) : Bit := s.ctrl.extractLsb' 0 1

/-- `MemRead(a, 16)`, the combinational read port (20_memory.md R53). -/
def memRead (s : State) (a : CfgAddr) : CfgWord :=
  if a = 0#2 then s.interval
  else if a = 1#2 then s.pullup.setWidth 16
  else 0x0000#16

/-- `MemWrite(a, 16, v)`, that is `write_cfg(a, v)` (20_memory.md R52, 43_host_ops.md R162). A write of 0 to INTERVAL
and every write to address 2 or 3 is ignored. -/
def writeCfg (a : CfgAddr) (v : CfgWord) (s : State) : State :=
  if a = 0#2 then (if v = 0#16 then s else s.setInterval v)
  else if a = 1#2 then s.setPullup (v.extractLsb' 0 1)
  else s

/-! ### Outputs -/

/-- The outputs, a function of the state, `rd_data` of `rd_addr` as well (10_state.md R34, 43_host_ops.md R166). -/
def State.outputs (s : State) : Outputs :=
  { stepPulse := s.evValid, stepDir := s.evDir, stepSpeed := s.evSpeed, padPullupEn := s.pullup,
    rdData := memRead s s.ports.rdAddr }

/-! ### Reset and power-up -/

/-- `reset_state()`: every register of the block takes its reset value; the command, the pins and `now_ms` are ignored
and no pin is captured (70_reset_and_hazards.md R201, R203). The parameters do not change, and neither do the model's
own fields: a draw after the reset is not the draw before it (log entry 4). -/
def resetRegs (s : State) : State :=
  { s with hist := 0x0#4, code := 0x00#8, steps := 0, lastT := 0, speed := 0, interval := 100#16, ctrl := 0x0000#16,
           sync := List.replicate s.params.syncStages 0b00#2, evValid := 0#1, evDir := 0#1, evSpeed := 0 }

/-- DEDUCED (log entry 5), safe. The state at power-up, before the first reset edge: every register holds any value of
its width (10_state.md R37, 70_reset_and_hazards.md R202). CTRL[15:1] are no storage and read 0 (10_state.md R29). -/
def State.powerOn (p : Params) (ports : Ports) (pending : List Ports) : State :=
  { params := p
    hist := BitVec.ofNat 4 (Config.powerUp 0)
    code := BitVec.ofNat 8 (Config.powerUp 1)
    steps := trunc p.stepW (Config.powerUp 2)
    lastT := trunc p.timeW (Config.powerUp 3)
    speed := trunc p.speedW (Config.powerUp 4)
    interval := BitVec.ofNat 16 (Config.powerUp 5)
    ctrl := (BitVec.ofNat 1 (Config.powerUp 6)).setWidth 16
    evValid := BitVec.ofNat 1 (Config.powerUp 7)
    evDir := BitVec.ofNat 1 (Config.powerUp 8)
    evSpeed := trunc p.speedW (Config.powerUp 9)
    sync := (List.range p.syncStages).map fun k => BitVec.ofNat 2 (Config.powerUp (10 + k))
    ports := ports
    pending := pending
    draws := 0 }

/-! ### The end of an edge -/

/-- An edge of an instance ends in the next state `t`; an instance whose parameters break 00_scope.md R8 or R9 is
refused (R9, 92_eei_decisions.md D6, log entry 3). -/
def completeEdge (s t : State) : Host.Outcome State Fault Refusal :=
  if s.params.ok then .next t else .refused .badParameters

/-! ### The command port -/

/-- The command word the fields on the command ports make (30_encoding.md R77). -/
def Ports.cmd20 (p : Ports) : Cmd20 := Cmd20.ofFields p.cmdUpd p.cmdWe p.cmdWa p.cmdWd

/-- Drive the fields of the command word `w` on the command ports (30_encoding.md R77). -/
def Ports.withCmd20 (p : Ports) (w : Cmd20) : Ports :=
  { p with cmdUpd := w.upd, cmdWe := w.we, cmdWa := w.wa, cmdWd := w.wd }

end Sys2Proof.Machine
end

