-- ==== Sys2Proof/Machine/Operands.lean ====
section
/-! DEFINITION. The operands of UPDATE: the pins as an edge captures them, the sample, the time (30_encoding.md R78,
41_decoder.md R110). WD, the operand of the writes, is used unchanged (R78). -/

namespace Sys2Proof.Machine

/-- The level an edge captures from a pin; a pin that changes inside the capture window gives the draw
(20_memory.md R61, log entry 4). -/
def PinLevel.resolve (draw : Bit) : PinLevel → Bit
  | .low => 0#1
  | .high => 1#1
  | .changing => draw

/-- `sample = {DT, CLK}` (30_encoding.md R71). -/
def sampleOf (dt clk : Bit) : Sample := dt ++ clk

/-- `{pin_dt, pin_clk}` as this edge captures them (10_state.md R30, 20_memory.md R61). -/
def State.capturedPins (s : State) : Sample :=
  sampleOf (s.ports.pinDt.resolve (Config.captureDt s.draws)) (s.ports.pinClk.resolve (Config.captureClk s.draws))

/-- The sample of an UPDATE: SYNC[SYNC_STAGES] as held before the edge, or the pins themselves with no stage
(10_state.md R30, 41_decoder.md R110). SYNC holds SYNC_STAGES entries in every state of `State.Wf`; the `getD` default
stands for no register. -/
def State.sampleIn (s : State) : Sample :=
  match s.params.syncStages with
  | 0 => s.capturedPins
  | n + 1 => s.sync.getD n 0b00#2

/-- `now_ms` at this edge. The port is TIME_W bits wide (10_state.md R33, log entry 7). -/
def State.nowIn (s : State) : Nat := trunc s.params.timeW s.ports.nowMs

end Sys2Proof.Machine
end

