-- ==== Sys2Proof/Machine/Flags.lean ====
section
/-! DEFINITION. The step event, the block's one event and the only status bit it has (10_state.md R31, R35,
41_decoder.md R115, 60_exceptions.md R183). -/

namespace Sys2Proof.Machine

/-- The direction bit: 0 = CW, 1 = CCW (30_encoding.md R76). -/
def Direction.bit : Direction → Bit
  | .cw => 0#1
  | .ccw => 1#1

/-- The event registers at a non-reset edge: `none` where no step was detected (41_decoder.md R115). -/
def stepEvent (ev : Option Direction) (s : State) : State :=
  match ev with
  | none => s.clearPulse
  | some d => s.raisePulse d.bit

end Sys2Proof.Machine
end

