-- ==== Sys2Proof/Machine/Validator.lean ====
section
/-! DEFINITION. The transition validator, a fixed 16-entry table (40_validator.md R100 to R105). -/

namespace Sys2Proof.Machine

/-- The validity table, entry h for the transition history h (40_validator.md R100). -/
def lutTable : Vector Bit 16 := #v[0,1,1,0, 1,0,0,1, 1,0,0,1, 0,1,1,0]

/-- `LUT(h)`: 1 = valid, 0 = invalid (40_validator.md R100, R101). -/
def lut (h : Nibble) : Bit := lutTable[h.toNat]'h.isLt

end Sys2Proof.Machine
end

