-- ==== Sys2Proof/Machine/Decoder.lean ====
section
/-! DEFINITION. The rotation decoder and direction classifier (41_decoder.md R110 to R114, 30_encoding.md R75). -/

namespace Sys2Proof.Machine

/-- The clockwise signature (30_encoding.md R75). -/
def cwSig (p : Params) : CodeByte := if p.dtHighOnCw then 0x2B#8 else 0x17#8

/-- The counter-clockwise signature (30_encoding.md R75). -/
def ccwSig (p : Params) : CodeByte := if p.dtHighOnCw then 0x17#8 else 0x2B#8

/-- `((HIST << 2) | sample) & 0xF` (41_decoder.md R110). -/
def shiftHist (h : Nibble) (smp : Sample) : Nibble := (h <<< 2) ||| smp.setWidth 4

/-- `((CODE << 4) | h) & 0xFF` (41_decoder.md R111). -/
def accumulate (c : CodeByte) (h : Nibble) : CodeByte := (c <<< 4) ||| h.setWidth 8

/-- The direction classifier, an exact compare on all 8 bits (41_decoder.md R112). -/
def classify (p : Params) (c : CodeByte) : Option Direction :=
  if c = cwSig p then some .cw
  else if c = ccwSig p then some .ccw
  else none

/-- `decode(sample)`: history shift, validity gate and code accumulation, classifier (41_decoder.md R113). An invalid
transition stops after the history shift (R111). -/
def decodeSample (smp : Sample) (s : State) : Option Direction × State :=
  let s1 := s.setHist (shiftHist s.hist smp)
  if lut s1.hist = 0#1 then (none, s1)
  else
    let s2 := s1.setCode (accumulate s1.code s1.hist)
    (classify s2.params s2.code, s2)

end Sys2Proof.Machine
end

