-- ==== Sys2Proof/Machine/Speed.lean ====
section
/-! DEFINITION. The speed estimator (42_speed.md R140 to R151). -/

namespace Sys2Proof.Machine

/-- The time since the last boundary (42_speed.md R140, R143). -/
def elapsed (now : Nat) (s : State) : Nat := wrapSub s.params.timeW now s.lastT

/-- `STEPS * 1000 / INTERVAL`, the product exact and the quotient the floor (42_speed.md R141). Division by 0 cannot
arise after a reset (R140); before one it is a free value (log entry 6). -/
def speedQuotient (steps interval : Nat) : Nat :=
  if interval = 0 then Config.quotientByZero steps else steps * 1000 / interval

/-- `speed_window(now)`: the boundary check of every UPDATE (42_speed.md R140, R142). -/
def speedWindow (now : Nat) (s : State) : State :=
  if s.interval.toNat ≤ elapsed now s then
    s.closeWindow (trunc s.params.speedW (speedQuotient s.steps s.interval.toNat)) now
  else s

/-- `step_account()`: STEPS + 1, wrapping, and SPEED forced from 0 to 1 (42_speed.md R145, R147). -/
def stepAccount (s : State) : State :=
  s.setCount (trunc s.params.stepW (s.steps + 1)) (if s.speed = 0 then 1 else s.speed)

end Sys2Proof.Machine
end

