-- ==== Sys2Proof/Machine/Update.lean ====
section
/-! DEFINITION. UPDATE (41_decoder.md R120) and the parts of an edge every command is made of
(43_host_ops.md R160, 70_reset_and_hazards.md R200). -/

namespace Sys2Proof.Machine

/-- `update(sample, now)`: boundary check, decode, step accounting, step event, in this order (41_decoder.md R120,
60_exceptions.md R185). -/
def update (smp : Sample) (now : Nat) (s : State) : State :=
  match decodeSample smp (speedWindow now s) with
  | (none, s1) => stepEvent none s1
  | (some d, s1) => stepEvent (some d) (stepAccount s1)

/-- The part of a non-reset edge with UPD = 0: the synchroniser shift and EV_VALID <- 0
(70_reset_and_hazards.md R200). -/
def idleEdge (s : State) : State := stepEvent none (s.shiftSync s.capturedPins)

/-- The part of a non-reset edge with UPD = 1: the sample is read before the synchroniser shifts
(70_reset_and_hazards.md R200). -/
def updateEdge (s : State) : State := update s.sampleIn s.nowIn (s.shiftSync s.capturedPins)

/-- UPDATE (41_decoder.md R120). -/
def execUpdate (s : State) : Host.Outcome State Fault Refusal := completeEdge s (updateEdge s)

end Sys2Proof.Machine
end

