-- ==== Sys2Proof/Machine/HostOps.lean ====
section
/-! DEFINITION. The host operations (43_host_ops.md): no operation, the configuration writes, and the commands that poll
and write at one edge. A write acts after the UPDATE of its edge (R167, 60_exceptions.md R185). -/

namespace Sys2Proof.Machine

/-- NOP (43_host_ops.md R161). -/
def execNop (s : State) : Host.Outcome State Fault Refusal := completeEdge s (idleEdge s)

/-- WR_INTERVAL (43_host_ops.md R163). -/
def execWrInterval (wd : CfgWord) (s : State) : Host.Outcome State Fault Refusal :=
  completeEdge s (writeCfg 0#2 wd (idleEdge s))

/-- WR_CTRL (43_host_ops.md R164). -/
def execWrCtrl (wd : CfgWord) (s : State) : Host.Outcome State Fault Refusal :=
  completeEdge s (writeCfg 1#2 wd (idleEdge s))

/-- WR_RSVD (43_host_ops.md R165). -/
def execWrRsvd (wa : CfgAddr) (wd : CfgWord) (s : State) : Host.Outcome State Fault Refusal :=
  completeEdge s (writeCfg wa wd (idleEdge s))

/-- UPDATE_WR_INTERVAL (43_host_ops.md R167). -/
def execUpdateWrInterval (wd : CfgWord) (s : State) : Host.Outcome State Fault Refusal :=
  completeEdge s (writeCfg 0#2 wd (updateEdge s))

/-- UPDATE_WR_CTRL (43_host_ops.md R168). -/
def execUpdateWrCtrl (wd : CfgWord) (s : State) : Host.Outcome State Fault Refusal :=
  completeEdge s (writeCfg 1#2 wd (updateEdge s))

/-- UPDATE_WR_RSVD (43_host_ops.md R169). -/
def execUpdateWrRsvd (wa : CfgAddr) (wd : CfgWord) (s : State) : Host.Outcome State Fault Refusal :=
  completeEdge s (writeCfg wa wd (updateEdge s))

end Sys2Proof.Machine
end

