-- ==== Sys2Proof/Machine/Dispatch.lean ====
section
/-! DEFINITION. One command to one meaning (30_encoding.md R79). `exec i s` is the non-reset edge at which the command
is `i`; `step` decides whether an edge is a reset edge (60_exceptions.md R185). -/

namespace Sys2Proof.Machine

def exec (i : Instr) (s : State) : Host.Outcome State Fault Refusal :=
  match i with
  | .nop => Sys2Proof.Machine.execNop s
  | .wrInterval wd => Sys2Proof.Machine.execWrInterval wd s
  | .wrCtrl wd => Sys2Proof.Machine.execWrCtrl wd s
  | .wrRsvd wa wd => Sys2Proof.Machine.execWrRsvd wa wd s
  | .update => Sys2Proof.Machine.execUpdate s
  | .updateWrInterval wd => Sys2Proof.Machine.execUpdateWrInterval wd s
  | .updateWrCtrl wd => Sys2Proof.Machine.execUpdateWrCtrl wd s
  | .updateWrRsvd wa wd => Sys2Proof.Machine.execUpdateWrRsvd wa wd s

end Sys2Proof.Machine
end

