-- ==== Sys2Proof/Machine/Step.lean ====
section
/-! DEFINITION. One rising edge of `clk` (70_reset_and_hazards.md R200): a reset edge where `rst_n` is 0, which
overrides every command word (30_encoding.md R82), else the command on the command port; then the environment drives
the next port values (log entry 1). -/

namespace Sys2Proof.Machine

/-- The edge step (70_reset_and_hazards.md R200, R201). -/
def step (s : State) : Host.Outcome State Fault Refusal :=
  if s.ports.rstN = 0#1 then completeEdge s (resetRegs s).nextInputs
  else
    match exec (decode s.ports.cmd20) s with
    | .next t => .next t.nextInputs
    | .fault f => .fault f
    | .refused r => .refused r

/-- The command port driven with the `nbits`-bit word `w`, reset released: the block fetches nothing
(20_memory.md R62), so the command presented at the coming edge is the one it runs (log entry 2). -/
def State.withFetchWord (s : State) (nbits w : Nat) : State :=
  s.withPorts { s.ports.withCmd20 (BitVec.ofNat 20 (w % 2 ^ nbits)) with rstN := 1#1 }

end Sys2Proof.Machine
end

