-- ==== Sys2Proof/Machine/Assembler.lean ====
section
/-! DEFINITION. Programs in the syntax of 30_encoding.md R84 and R85 as data (log entry 11): a line presents one
command, or a reset, at one edge, with the levels of the pins and the time. Assembling a program gives the port values
of its edges, and loading it schedules them. -/

namespace Sys2Proof.Machine

/-- What a line presents at its edge (30_encoding.md R84). -/
inductive AsmCommand where
  /-- A command; `rst_n` is 1. -/
  | command (i : Instr)
  /-- `RST`: `rst_n` is 0 and there is no command. -/
  | rst
  deriving DecidableEq, Repr

/-- `@ p=DT CLK, t=natural`; an omitted field keeps its value from the line before (30_encoding.md R84). -/
structure Stimulus where
  /-- The levels on `pin_dt` and `pin_clk`, as `{DT, CLK}`. -/
  pins : Option Sample
  /-- The value on `now_ms`. -/
  time : Option Nat
  deriving DecidableEq, Repr

/-- A line without label and comment (30_encoding.md R84). -/
structure AsmLine where
  /-- The command. -/
  cmd : AsmCommand
  /-- The stimulus. -/
  stim : Stimulus
  deriving DecidableEq, Repr

/-- The pseudo-instructions (30_encoding.md R85). -/
inductive Pseudo where
  /-- `BEGIN pu`, pu = 0 or 1. -/
  | begin (pu : Bit)
  /-- `SETIV ms`. -/
  | setiv (ms : CfgWord)
  /-- `POLL`. -/
  | poll
  /-- `IDLE n`. -/
  | idle (n : Nat)
  deriving DecidableEq, Repr

/-- The commands a pseudo-instruction stands for (30_encoding.md R85). -/
def Pseudo.expand : Pseudo → List Instr
  | .begin pu => [.wrCtrl (pu.setWidth 16)]
  | .setiv ms => [.wrInterval ms]
  | .poll => [.update]
  | .idle n => List.replicate n .nop

/-- A stable pin level of one bit. -/
def PinLevel.ofBit (b : Bit) : PinLevel := if b = 0#1 then .low else .high

/-- The ports with a stimulus applied (30_encoding.md R84). -/
def Ports.stimulate (p : Ports) (st : Stimulus) : Ports :=
  { p with
    pinDt := match st.pins with | none => p.pinDt | some v => PinLevel.ofBit (v.extractLsb' 1 1)
    pinClk := match st.pins with | none => p.pinClk | some v => PinLevel.ofBit (v.extractLsb' 0 1)
    nowMs := st.time.getD p.nowMs }

/-- The ports with a line's command presented, its don't-care bits 0 (30_encoding.md R84). A `RST` line drives
`rst_n = 0` and presents no command, which the model writes as a NOP on the command port. -/
def Ports.present (p : Ports) : AsmCommand → Ports
  | .command i => { p.withCmd20 (encode i) with rstN := 1#1 }
  | .rst => { p.withCmd20 0#20 with rstN := 0#1 }

/-- The port values of a line's edge, from those of the line before (30_encoding.md R84). DESIGN CHOICE (log entry 16),
unsafe: the rule gives a line no `rd_addr`, and the port keeps the one of the line before. -/
def AsmLine.ports (prev : Ports) (l : AsmLine) : Ports := (prev.stimulate l.stim).present l.cmd

/-- The port values of a program's edges; the first line's omitted fields come from `prev` (30_encoding.md R84: both 0
at the start of a program, as in `Ports.quiet`; its `rd_addr` comes from `prev` as well, log entry 16). -/
def assemble (prev : Ports) : List AsmLine → List Ports
  | [] => []
  | l :: ls => l.ports prev :: assemble (l.ports prev) ls

/-- Schedule port values for the coming edges. -/
def State.load (s : State) : List Ports → State
  | [] => s
  | p :: ps => { s with ports := p, pending := ps }

end Sys2Proof.Machine
end

