-- ==== Sys2Proof/Safety.lean ====
section
/-! DEFINITION. The invariant of the block, runs and their observation (70_reset_and_hazards.md R220), in the terms
statements use. -/

namespace Sys2Proof.Machine

/-- What holds of every state since a reset: the parameters are legal (00_scope.md R8, R9), every register is inside its
width (10_state.md R22), SYNC has its SYNC_STAGES stages (R30), INTERVAL is not 0 (R28), and CTRL[15:1] are 0 (R29). -/
abbrev State.Wf (s : State) : Prop :=
  s.params.ok = true ∧ s.steps < 2 ^ s.params.stepW ∧ s.lastT < 2 ^ s.params.timeW ∧ s.speed < 2 ^ s.params.speedW ∧
    s.evSpeed < 2 ^ s.params.speedW ∧ s.sync.length = s.params.syncStages ∧ s.interval ≠ 0#16 ∧ s.ctrl &&& 0xFFFE#16 = 0#16

/-- A run: the state after the edges at which the ports carry the listed values (70_reset_and_hazards.md R220). -/
def drive : List Ports → State → Host.Outcome State Fault Refusal
  | [], s => .next s
  | p :: ps, s =>
    match step (s.withPorts p) with
    | .next t => drive ps t
    | .fault f => .fault f
    | .refused r => .refused r

/-- The observation of a run: the outputs after each edge, `rd_data` for the `rd_addr` listed with the edge
(70_reset_and_hazards.md R220). -/
def observe : List Ports → State → Host.Outcome (List Outputs) Fault Refusal
  | [], _ => .next []
  | p :: ps, s =>
    match step (s.withPorts p) with
    | .next t =>
      match observe ps t with
      | .next os => .next ((t.withPorts p).outputs :: os)
      | .fault f => .fault f
      | .refused r => .refused r
    | .fault f => .fault f
    | .refused r => .refused r

/-- A safe run ends in a next state: no edge of it faults or is refused. -/
def SafeRun (ps : List Ports) (s : State) : Prop := ∃ t, drive ps s = .next t

/-- `now_ms` at the coming edge minus LAST_T, modulo 2^TIME_W (42_speed.md R140). -/
abbrev State.elapsedIn (s : State) : Nat := (s.ports.nowMs % 2 ^ s.params.timeW + 2 ^ s.params.timeW - s.lastT) % 2 ^ s.params.timeW

/-- An UPDATE at the coming edge would be a boundary (42_speed.md R140). -/
abbrev State.AtBoundary (s : State) : Prop := s.interval.toNat ≤ s.elapsedIn

/-- The edges of a run stay within the window that is open: no edge is a reset edge, and no UPDATE of them is a boundary
(42_speed.md R140, R149). -/
def WithinWindow : List Ports → State → Prop
  | [], _ => True
  | p :: ps, s =>
    p.rstN = 1#1 ∧ (p.cmdUpd = 1#1 → ¬ (s.withPorts p).AtBoundary) ∧
      ∀ t, step (s.withPorts p) = .next t → WithinWindow ps t

/-- An edge that polls: reset released and UPD = 1 (00_scope.md R7). -/
abbrev Ports.Polls (p : Ports) : Prop := p.rstN = 1#1 ∧ p.cmdUpd = 1#1

/-- The pins carry the stable levels `{DT, CLK}` of `v` at this edge. -/
abbrev Ports.PinsAre (p : Ports) (v : Sample) : Prop :=
  p.pinDt = (if v.getLsbD 1 then .high else .low) ∧ p.pinClk = (if v.getLsbD 0 then .high else .low)

/-- The samples the UPDATEs of a run use; edges that do not poll use none (10_state.md R30, 41_decoder.md R110). -/
def samplesPolled : List Ports → State → List Sample
  | [], _ => []
  | p :: ps, s =>
    (if p.Polls then [(s.withPorts p).sampleIn] else []) ++
      match step (s.withPorts p) with
      | .next t => samplesPolled ps t
      | .fault _ => []
      | .refused _ => []

/-- The valid nibbles of a run: HIST after each of its UPDATEs whose transition is valid (41_decoder.md R111). -/
def validNibbles : List Ports → State → List Nibble
  | [], _ => []
  | p :: ps, s =>
    match step (s.withPorts p) with
    | .next t => (if p.Polls ∧ lut t.hist = 1#1 then [t.hist] else []) ++ validNibbles ps t
    | .fault _ => []
    | .refused _ => []

end Sys2Proof.Machine
end

