-- ==== Sys2Proof/Certificates/Slice0/Obligations.lean ====
section
/-! DEFINITION. The statements for the provers. Each docstring names the rules of spec/ it formalises. Results are
written with the spec's own values and conditions, not with the operations of the model, wherever the spec gives them:
the valid transitions as the set of 40_validator.md R102, the signatures as their bytes, the arithmetic as in
42_speed.md R140. Where a statement gives a whole next state, its `draws` is the model's own counter of captures
(log entry 4), and its `ports` and `pending` are what the environment drives (log entry 1). -/

open Sys2Proof Sys2Proof.Machine

/-! ### Encoding -/

/-- The example words of 95_test_vectors.md E1 decode to their commands (30_encoding.md R79). -/
def Obligations.WordsOfTheOpcodeMapDecode : Prop :=
  decode 0x00000#20 = .nop ∧ decode 0x3FFFF#20 = .nop ∧ decode 0x80000#20 = .update ∧ decode 0xBFFFF#20 = .update ∧
    decode 0x4ABCD#20 = .wrInterval 0xABCD#16 ∧ decode 0x5FFFE#20 = .wrCtrl 0xFFFE#16 ∧
    decode 0x6FFFF#20 = .wrRsvd 2#2 0xFFFF#16 ∧ decode 0x71234#20 = .wrRsvd 3#2 0x1234#16 ∧
    decode 0xC0064#20 = .updateWrInterval 100#16 ∧ decode 0xD0001#20 = .updateWrCtrl 1#16 ∧
    decode 0xE0000#20 = .updateWrRsvd 2#2 0#16 ∧ decode 0xFFFFF#20 = .updateWrRsvd 3#2 0xFFFF#16

/-- Decoding the word of a well-formed command gives the command back, every operand at every value
(30_encoding.md R77 to R79, R84). -/
def Obligations.DecodeOfEncodeIsTheCommand : Prop :=
  ∀ i : Instr, i.wf = true → decode (encode i) = i

/-- Every word decodes to a well-formed command, and encoding that gives the word back but for its don't-care bits,
which are 0: WA and WD where WE = 0 (30_encoding.md R77, R81, R84). -/
def Obligations.EncodeOfDecodeClearsDontCareBits : Prop :=
  ∀ w : Cmd20, (decode w).wf = true ∧
    encode (decode w) = (if w.getLsbD 18 then w else w &&& 0x80000#20)

/-- Every word selects exactly one row of the opcode map by `w & mask == match`, the row of the command it decodes to
(30_encoding.md R80 with R79). -/
def Obligations.EveryWordSelectsExactlyOneRow : Prop :=
  ∀ w : Cmd20, ((opcodeMap.filter fun r => r.selects w).map fun r => r.mnemonic) = [(decode w).mnemonic]

/-! ### The edge step -/

/-- At an edge with `rst_n = 1` a step is `exec` of the decoded command port, after which the environment's next port
values stand on the ports (30_encoding.md R77, R82; what the ports carry after the edge is log entry 1). -/
def Obligations.StepRunsTheCommandOnThePort : Prop :=
  ∀ s : State, s.ports.rstN = 1#1 →
    (∀ t, exec (decode s.ports.cmd20) s = .next t →
      step s = .next { t with ports := s.pending.headD s.ports, pending := s.pending.tail }) ∧
    (∀ r, exec (decode s.ports.cmd20) s = .refused r → step s = .refused r)

/-- The step is the pseudocode of 70_reset_and_hazards.md R200, written with the ports UPD, WE, WA and WD instead of the
decoded command. What the ports carry after the edge is log entry 1, the counter of captures log entry 4. -/
def Obligations.StepFollowsTheEdgePseudocode : Prop :=
  ∀ s : State, s.params.ok = true →
    step s = .next (
      if s.ports.rstN = 0#1 then (resetRegs s).nextInputs
      else
        let pins := s.capturedPins
        let sample := if s.params.syncStages = 0 then pins else s.sync.getD (s.params.syncStages - 1) 0#2
        let shifted := { s with sync := (pins :: s.sync).take s.params.syncStages, draws := s.draws + 1 }
        let polled :=
          if s.ports.cmdUpd = 1#1 then update sample (s.ports.nowMs % 2 ^ s.params.timeW) shifted
          else { shifted with evValid := 0#1 }
        let written := if s.ports.cmdWe = 1#1 then writeCfg s.ports.cmdWa s.ports.cmdWd polled else polled
        { written with ports := s.pending.headD s.ports, pending := s.pending.tail })

/-- Over any sequence of port values, with legal parameters, no edge faults or is refused, and every command completes
(60_exceptions.md R180). -/
def Obligations.NoInputStopsTheBlock : Prop :=
  ∀ s : State, s.params.ok = true →
    (∀ ps : List Ports, ∃ t, drive ps s = .next t) ∧ ∀ i : Instr, ∃ t, exec i s = .next t

/-- Parameters that break `SPEED_W >= STEP_W + 10` are refused at every edge and by every command; under the constraint
every quotient fits in SPEED, by the bounds the rule gives (00_scope.md R9). -/
def Obligations.ParametersThatTruncateSpeedAreRefused : Prop :=
  ∀ s : State,
    (s.params.speedW < s.params.stepW + 10 →
      step s = .refused .badParameters ∧ ∀ i : Instr, exec i s = .refused .badParameters) ∧
    (s.params.stepW + 10 ≤ s.params.speedW →
      ∀ steps interval : Nat, steps < 2 ^ s.params.stepW → 1 ≤ interval →
        steps * 1000 ≤ (2 ^ s.params.stepW - 1) * 1000 ∧
        (2 ^ s.params.stepW - 1) * 1000 < 2 ^ (s.params.stepW + 10) ∧
        steps * 1000 / interval < 2 ^ s.params.speedW)

/-- Parameters outside the ranges of 00_scope.md R8 or the constraint of R9 are refused at every edge and by every
command: SPEED_W < STEP_W + 10 (R9), TIME_W < 16 (92_eei_decisions.md D6), and STEP_W = 0, whose refusal is the model's
reading of R8 (log entry 3). An instance with legal parameters is never refused. -/
def Obligations.IllegalParametersAreRefused : Prop :=
  ∀ s : State,
    (s.params.speedW < s.params.stepW + 10 ∨ s.params.timeW < 16 ∨ s.params.stepW = 0 →
      step s = .refused .badParameters ∧ ∀ i : Instr, exec i s = .refused .badParameters) ∧
    (s.params.stepW + 10 ≤ s.params.speedW → 16 ≤ s.params.timeW → 1 ≤ s.params.stepW →
      (∀ r, step s ≠ .refused r) ∧ ∀ (i : Instr) (r : Refusal), exec i s ≠ .refused r)

/-- No edge changes the parameters or the signatures they fix (10_state.md R32, 30_encoding.md R75). -/
def Obligations.NoRunChangesTheInstance : Prop :=
  ∀ (ps : List Ports) (s t : State), drive ps s = .next t →
    t.params = s.params ∧ cwSig t.params = cwSig s.params ∧ ccwSig t.params = ccwSig s.params

/-! ### Reset -/

/-- A reset edge gives every register its reset value, whatever the command, the pins and the time are, and the outputs
their reset values (70_reset_and_hazards.md R201). -/
def Obligations.ResetEdgeWritesEveryResetValue : Prop :=
  ∀ s : State, s.params.ok = true → s.ports.rstN = 0#1 →
    ∃ t, step s = .next t ∧ t.hist = 0x0#4 ∧ t.code = 0x00#8 ∧ t.steps = 0 ∧ t.lastT = 0 ∧ t.speed = 0 ∧
      t.interval = 100#16 ∧ t.ctrl = 0x0000#16 ∧ t.sync = List.replicate s.params.syncStages 0b00#2 ∧
      t.evValid = 0#1 ∧ t.evDir = 0#1 ∧ t.evSpeed = 0 ∧
      ∀ a : CfgAddr, (t.withPorts { t.ports with rdAddr := a }).outputs =
        { stepPulse := 0#1, stepDir := 0#1, stepSpeed := 0, padPullupEn := 0#1,
          rdData := if a = 0#2 then 100#16 else 0#16 }

/-- While `rst_n = 0` is held for one or more edges, the state stays at its reset values; the parameters and signatures do
not change and no pin value enters SYNC (70_reset_and_hazards.md R203). -/
def Obligations.HeldResetKeepsTheResetValues : Prop :=
  ∀ (s : State) (ps : List Ports), s.params.ok = true → ps ≠ [] → (∀ p ∈ ps, p.rstN = 0#1) →
    ∃ t, drive ps s = .next t ∧ t.params = s.params ∧ cwSig t.params = cwSig s.params ∧
      ccwSig t.params = ccwSig s.params ∧ t.sync = List.replicate s.params.syncStages 0b00#2 ∧ t.hist = 0x0#4 ∧
      t.code = 0x00#8 ∧ t.steps = 0 ∧ t.lastT = 0 ∧ t.speed = 0 ∧ t.interval = 100#16 ∧ t.ctrl = 0x0000#16 ∧
      t.evValid = 0#1 ∧ t.evDir = 0#1 ∧ t.evSpeed = 0

/-- One reset edge makes the unknown power-up state the reset state of its instance (70_reset_and_hazards.md R202 with
R201). The power-up values are free values (log entry 5); what the ports carry after the edge is the model's choice (log
entry 1). -/
def Obligations.ResetEdgeEndsTheUnknownPowerUpState : Prop :=
  ∀ (p : Params) (ports : Ports) (pending : List Ports), p.ok = true → ports.rstN = 0#1 →
    step (State.powerOn p ports pending) = .next (State.afterReset p (pending.headD ports) pending.tail)

/-- The reset state of every legal instance, the default one among them, meets the invariant (10_state.md R22, R28,
R29, R30). -/
def Obligations.ResetStateMeetsTheInvariant : Prop :=
  State.reset.Wf ∧
    ∀ (p : Params) (ports : Ports) (pending : List Ports), p.ok = true → (State.afterReset p ports pending).Wf

/-- Every edge from every state that meets the invariant leads to a state that meets it: every register inside its
width, INTERVAL not 0, CTRL[15:1] 0, SYNC_STAGES stages, legal parameters (10_state.md R22, R28, R29, R30). -/
def Obligations.EveryEdgeKeepsTheInvariant : Prop :=
  ∀ s t : State, s.Wf → step s = .next t → t.Wf

/-! ### Commands without UPDATE -/

/-- NOP: UPD = WE = 0 whatever the other bits; it clears EV_VALID and shifts the synchroniser, and writes nothing else
(43_host_ops.md R161). -/
def Obligations.NopClearsThePulseOnly : Prop :=
  (∀ w : Cmd20, w &&& 0xC0000#20 = 0x00000#20 → decode w = .nop) ∧
    ∀ s : State, s.params.ok = true →
      exec .nop s = .next { s with evValid := 0#1, sync := (s.capturedPins :: s.sync).take s.params.syncStages,
                                   draws := s.draws + 1 }

/-- WR_INTERVAL writes INTERVAL unless WD is 0, clears EV_VALID and writes nothing else; address 0 reads WD, or the old
value if WD = 0 (43_host_ops.md R163). -/
def Obligations.WrIntervalWritesTheIntervalUnlessZero : Prop :=
  (∀ wd : CfgWord, decode (0b0100#4 ++ wd : Cmd20) = .wrInterval wd) ∧
    ∀ (s : State) (wd : CfgWord), s.params.ok = true →
      ∃ t, exec (.wrInterval wd) s = .next t ∧
        t = { s with interval := if wd = 0#16 then s.interval else wd, evValid := 0#1,
                     sync := (s.capturedPins :: s.sync).take s.params.syncStages, draws := s.draws + 1 } ∧
        memRead t 0#2 = (if wd = 0#16 then memRead s 0#2 else wd)

/-- WR_CTRL writes CTRL.PULLUP with WD[0], clears EV_VALID and writes nothing else; WD[15:1] are ignored, address 1 reads
`zext_16(WD[0])` and `pad_pullup_en` is WD[0] (43_host_ops.md R164, R166). -/
def Obligations.WrCtrlWritesThePullupBit : Prop :=
  (∀ wd : CfgWord, decode (0b0101#4 ++ wd : Cmd20) = .wrCtrl wd) ∧
    ∀ (s : State) (wd : CfgWord), s.params.ok = true →
      ∃ t, exec (.wrCtrl wd) s = .next t ∧
        t = { s with ctrl := (s.ctrl &&& 0xFFFE#16) ||| (wd &&& 1#16), evValid := 0#1,
                     sync := (s.capturedPins :: s.sync).take s.params.syncStages, draws := s.draws + 1 } ∧
        memRead t 1#2 = wd &&& 1#16 ∧ t.outputs.padPullupEn = (if wd.getLsbD 0 then 1#1 else 0#1)

/-- WR_RSVD, to address 2 or 3, is in effect a NOP: it clears EV_VALID and writes no register; addresses 2 and 3 read 0
before and after (43_host_ops.md R165). -/
def Obligations.WrRsvdWritesNoRegister : Prop :=
  (∀ (a : Bit) (wd : CfgWord), decode (0b011#3 ++ a ++ wd : Cmd20) = .wrRsvd (1#1 ++ a) wd) ∧
    ∀ (s : State) (wa : CfgAddr) (wd : CfgWord), s.params.ok = true → (wa = 2#2 ∨ wa = 3#2) →
      ∃ t, exec (.wrRsvd wa wd) s = .next t ∧
        t = { s with evValid := 0#1, sync := (s.capturedPins :: s.sync).take s.params.syncStages,
                     draws := s.draws + 1 } ∧
        memRead s 2#2 = 0#16 ∧ memRead s 3#2 = 0#16 ∧ memRead t 2#2 = 0#16 ∧ memRead t 3#2 = 0#16

/-! ### The configuration register space -/

/-- `write_cfg` at every address with every value, and what it leaves unchanged (43_host_ops.md R162). -/
def Obligations.WriteCfgAtEveryAddress : Prop :=
  ∀ (a : CfgAddr) (v : CfgWord) (s : State), s.ctrl &&& 0xFFFE#16 = 0#16 →
    writeCfg a v s =
      if a = 0#2 then { s with interval := if v = 0#16 then s.interval else v }
      else if a = 1#2 then { s with ctrl := v &&& 1#16 }
      else s

/-- Reading back after a write: address 0 reads the last nonzero value, address 1 bit 0 of the value, 2 and 3 read 0; no
write shows at another address; a write done twice is the write done once (20_memory.md R51, R53, R56). -/
def Obligations.ConfigurationReadsBackWhatWasWritten : Prop :=
  ∀ (a b : CfgAddr) (v : CfgWord) (s : State),
    memRead (writeCfg a v s) b =
        (if b ≠ a ∨ (a = 0#2 ∧ v = 0#16) then memRead s b
         else if a = 0#2 then v
         else if a = 1#2 then v &&& 1#16
         else 0#16) ∧
      (b = 2#2 ∨ b = 3#2 → memRead s b = 0#16) ∧
      writeCfg a v (writeCfg a v s) = writeCfg a v s

/-- CTRL reaches no other register at any edge: changing it beforehand changes nothing afterwards but CTRL
(43_host_ops.md R164, R166: the pull-up acts on the pads only). -/
def Obligations.CtrlReachesNoOtherRegister : Prop :=
  ∀ (s t : State) (c : CfgWord), step s = .next t → ∃ c', step { s with ctrl := c } = .next { t with ctrl := c' }

/-! ### UPDATE -/

/-- UPDATE where the transition is invalid or completes no signature: HIST takes the sample in, CODE takes the nibble in
if it is valid, the boundary check runs all the same, EV_VALID is cleared, and nothing else changes
(41_decoder.md R110, R111, R112, R115, R120, 42_speed.md R140, R142). `sample` is SYNC[SYNC_STAGES], or the pins with no stage. -/
def Obligations.UpdateWithoutAStep : Prop :=
  ∀ (s : State) (sample : Sample), s.Wf → (s.capturedPins :: s.sync)[s.params.syncStages]? = some sample →
    let h : Nibble := s.hist.extractLsb' 0 2 ++ sample
    let c : CodeByte := s.code.extractLsb' 0 4 ++ h
    (h ∈ [0#4, 3#4, 5#4, 6#4, 9#4, 10#4, 12#4, 15#4] ∨ (c ≠ 0x17#8 ∧ c ≠ 0x2B#8)) →
      exec .update s = .next
        { s with hist := h
                 code := if h ∈ [1#4, 2#4, 4#4, 7#4, 8#4, 11#4, 13#4, 14#4] then c else s.code
                 speed := if s.AtBoundary then s.steps * 1000 / s.interval.toNat else s.speed
                 steps := if s.AtBoundary then 0 else s.steps
                 lastT := if s.AtBoundary then s.ports.nowMs % 2 ^ s.params.timeW else s.lastT
                 evValid := 0#1
                 sync := (s.capturedPins :: s.sync).take s.params.syncStages
                 draws := s.draws + 1 }

/-- UPDATE where a valid transition completes a signature: the step is counted, in the new window if this UPDATE is a
boundary, SPEED is forced from 0 to 1, and the event carries the direction of the signature and the new SPEED; nothing
else changes (30_encoding.md R75, R76, 41_decoder.md R112, R115, R116, R120, 42_speed.md R140, R145, R147). -/
def Obligations.UpdateWithAStep : Prop :=
  ∀ (s : State) (sample : Sample), s.Wf → (s.capturedPins :: s.sync)[s.params.syncStages]? = some sample →
    let h : Nibble := s.hist.extractLsb' 0 2 ++ sample
    let c : CodeByte := s.code.extractLsb' 0 4 ++ h
    let speed := if s.AtBoundary then s.steps * 1000 / s.interval.toNat else s.speed
    h ∈ [1#4, 2#4, 4#4, 7#4, 8#4, 11#4, 13#4, 14#4] → (c = 0x17#8 ∨ c = 0x2B#8) →
      exec .update s = .next
        { s with hist := h
                 code := c
                 speed := if speed = 0 then 1 else speed
                 steps := ((if s.AtBoundary then 0 else s.steps) + 1) % 2 ^ s.params.stepW
                 lastT := if s.AtBoundary then s.ports.nowMs % 2 ^ s.params.timeW else s.lastT
                 evValid := 1#1
                 evDir := if c = (if s.params.dtHighOnCw then 0x2B#8 else 0x17#8) then 0#1 else 1#1
                 evSpeed := if speed = 0 then 1 else speed
                 sync := (s.capturedPins :: s.sync).take s.params.syncStages
                 draws := s.draws + 1 }

/-- The commands that poll and write at one edge are UPDATE, with the INTERVAL and CTRL of before the edge, and then the
write; nothing else is written (43_host_ops.md R167, R168, R169). -/
def Obligations.PollAndWriteIsUpdateThenWrite : Prop :=
  ∀ (s : State) (wa : CfgAddr) (wd : CfgWord), s.params.ok = true →
    ∃ t, exec .update s = .next t ∧ t.interval = s.interval ∧ t.ctrl = s.ctrl ∧
      exec (.updateWrInterval wd) s = .next { t with interval := if wd = 0#16 then s.interval else wd } ∧
      exec (.updateWrCtrl wd) s = .next { t with ctrl := (s.ctrl &&& 0xFFFE#16) ||| (wd &&& 1#16) } ∧
      (wa = 2#2 ∨ wa = 3#2 → exec (.updateWrRsvd wa wd) s = .next t)

/-! ### The decoder -/

/-- The validity table: its valid set is the one the rule lists, every other index is invalid, and the valid ones are
those whose two samples differ in exactly one pin (40_validator.md R102). -/
def Obligations.ValidTransitionsAreTheOnePinChanges : Prop :=
  ∀ h : Nibble,
    (lut h = 1#1 ↔ h ∈ [1#4, 2#4, 4#4, 7#4, 8#4, 11#4, 13#4, 14#4]) ∧
    (lut h = 0#1 ↔ h ∈ [0#4, 3#4, 5#4, 6#4, 9#4, 10#4, 12#4, 15#4]) ∧
    (lut h = 1#1 ↔ h.extractLsb' 2 2 ^^^ h.extractLsb' 0 2 = 0b01#2 ∨ h.extractLsb' 2 2 ^^^ h.extractLsb' 0 2 = 0b10#2)

/-- At a non-reset edge `step_pulse` rises exactly when the edge polls, its transition is valid and the CODE it has just
written is a signature, and the direction is that of the signature; an invalid transition over a CODE that equals a
signature gives no second pulse (41_decoder.md R112). -/
def Obligations.PulseExactlyOnACompletedSignature : Prop :=
  ∀ s t : State, s.ports.rstN = 1#1 → step s = .next t →
    (t.evValid = 1#1 ↔ s.ports.cmdUpd = 1#1 ∧ t.hist ∈ [1#4, 2#4, 4#4, 7#4, 8#4, 11#4, 13#4, 14#4] ∧
      (t.code = 0x17#8 ∨ t.code = 0x2B#8)) ∧
    (t.evValid = 1#1 → t.evDir = if t.code = (if s.params.dtHighOnCw then 0x2B#8 else 0x17#8) then 0#1 else 1#1)

/-- EV_VALID is written at every edge: 1 where an UPDATE detected a step and 0 at every other edge, a reset edge among
them. EV_DIR and EV_SPEED are written, to the direction and the new SPEED, where a step was detected, and hold at every
other edge that is no reset edge (10_state.md R31, 41_decoder.md R115). -/
def Obligations.EventRegistersHoldBetweenSteps : Prop :=
  ∀ s t : State, step s = .next t →
    (t.evValid = 1#1 ↔ s.ports.rstN = 1#1 ∧ s.ports.cmdUpd = 1#1 ∧ (decodeSample s.sampleIn s).1 ≠ none) ∧
    (s.ports.rstN = 1#1 → t.evValid = 0#1 → t.evDir = s.evDir ∧ t.evSpeed = s.evSpeed) ∧
    (t.evValid = 1#1 → t.evSpeed = t.speed ∧ ∀ d, (decodeSample s.sampleIn s).1 = some d → t.evDir = d.bit)

/-- From CODE = 0x00, its reset value, no edge raises a pulse, and CODE stays 0x00 until the first valid nibble n makes
it 0x0n, which is no signature: the earliest step after reset is at the second valid transition (41_decoder.md R117). -/
def Obligations.NoStepAtTheFirstValidTransition : Prop :=
  (∀ (p : Params) (ports : Ports) (pending : List Ports), (State.afterReset p ports pending).code = 0x00#8) ∧
    (∀ n : Nibble, (0x0#4 ++ n : CodeByte) ≠ 0x17#8 ∧ (0x0#4 ++ n : CodeByte) ≠ 0x2B#8) ∧
    ∀ s t : State, s.code = 0x00#8 → step s = .next t →
      t.evValid = 0#1 ∧
      t.code = if s.ports.rstN = 1#1 ∧ s.ports.cmdUpd = 1#1 ∧ t.hist ∈ [1#4, 2#4, 4#4, 7#4, 8#4, 11#4, 13#4, 14#4]
        then (0x0#4 ++ t.hist : CodeByte) else 0x00#8

/-- After two valid transitions CODE is those two nibbles, whatever it held before: over every run without a reset edge,
of polls with or without a write, writes, NOPs and invalid transitions in any order, CODE at the end is the last two
valid nibbles of the run (41_decoder.md R121, R111). -/
def Obligations.TwoValidTransitionsFlushTheCode : Prop :=
  ∀ (s t : State) (ps : List Ports) (older : List Nibble) (a b : Nibble), (∀ p ∈ ps, p.rstN = 1#1) →
    drive ps s = .next t → validNibbles ps s = older ++ [a, b] → t.code = (a ++ b : CodeByte)

/-- A single glitch from the rest positions 00 and 11 makes two valid nibbles, gives no step and leaves the CODE value of
the rule, with no older history; from a half-step rest 01 or 10 reached from 00 by a valid transition, a glitch of the
other pin completes a signature and gives a step (41_decoder.md R122). -/
def Obligations.SingleGlitchFromRestGivesNoStep : Prop :=
  (∀ (s u t : State) (p : Ports) (rest glitch : Sample) (code : CodeByte),
    (rest, glitch, code) ∈ [(0b00#2, 0b01#2, 0x14#8), (0b00#2, 0b10#2, 0x28#8), (0b11#2, 0b10#2, 0xEB#8), (0b11#2, 0b01#2, 0xD7#8)] →
    s.hist.extractLsb' 0 2 = rest → s.sampleIn = glitch → exec .update s = .next u →
    (u.withPorts p).sampleIn = rest → exec .update (u.withPorts p) = .next t →
      u.hist ∈ [1#4, 2#4, 4#4, 7#4, 8#4, 11#4, 13#4, 14#4] ∧ t.hist ∈ [1#4, 2#4, 4#4, 7#4, 8#4, 11#4, 13#4, 14#4] ∧
      u.evValid = 0#1 ∧ t.evValid = 0#1 ∧ t.code = code) ∧
  (∀ (s : State) (rest : Sample) (nibble : Nibble) (code : CodeByte),
    s.params.ok = true → (rest, nibble, code) ∈ [(0b01#2, 0x1#4, 0x17#8), (0b10#2, 0x2#4, 0x2B#8)] →
    s.hist.extractLsb' 0 2 = rest → s.code.extractLsb' 0 4 = nibble → s.sampleIn = 0b11#2 →
      ∃ t, exec .update s = .next t ∧ t.evValid = 1#1 ∧ t.code = code)

/-- Clean rotation: a run of any edges but reset edges, whose UPDATEs alone see samples that go round 00, 01, 11, 10, 00
once for each entry of `cycles`, each level held for as many UPDATEs as one likes, gives exactly one step for each cycle,
CW with the default polarity and CCW with the other; the reverse order gives as many steps the other way (41_decoder.md
R118). -/
def Obligations.CleanRotationGivesOneStepPerCycle : Prop :=
  ∀ (s : State) (ps : List Ports) (os : List Outputs) (k : Nat) (cycles : List (Nat × Nat × Nat × Nat)) (x y : Sample),
    s.params.ok = true → (∀ p ∈ ps, p.rstN = 1#1) → s.hist.extractLsb' 0 2 = 0b00#2 →
    ((x = 0b01#2 ∧ y = 0b10#2) ∨ (x = 0b10#2 ∧ y = 0b01#2)) →
    samplesPolled ps s = List.replicate k 0b00#2 ++ cycles.flatMap (fun n =>
      List.replicate (n.1 + 1) x ++ List.replicate (n.2.1 + 1) 0b11#2 ++ List.replicate (n.2.2.1 + 1) y ++
        List.replicate (n.2.2.2 + 1) 0b00#2) →
    observe ps s = .next os →
      ((os.filter fun o => o.stepPulse == 1#1).map fun o => o.stepDir) =
        List.replicate cycles.length (if (x = 0b01#2) = (s.params.dtHighOnCw = true) then 1#1 else 0#1)

/-- Swapping the polarity exchanges the two signatures and nothing else. Over every run the same edges give steps, every
direction is inverted, and the state after the run is the same but for the polarity and EV_DIR (41_decoder.md R119). -/
def Obligations.PolaritySwapInvertsEveryDirection : Prop :=
  ∀ (ps : List Ports) (s t : State) (os : List Outputs), drive ps s = .next t → observe ps s = .next os →
    let swapped : State := { s with params := { s.params with dtHighOnCw := !s.params.dtHighOnCw } }
    cwSig swapped.params = ccwSig s.params ∧ ccwSig swapped.params = cwSig s.params ∧
    (∃ d, drive ps swapped =
      .next { t with params := { t.params with dtHighOnCw := !t.params.dtHighOnCw }, evDir := d }) ∧
    ∃ os', observe ps swapped = .next os' ∧
      List.Forall₂ (fun o o' => o'.stepPulse = o.stepPulse ∧ o'.stepSpeed = o.stepSpeed ∧
        o'.padPullupEn = o.padPullupEn ∧ o'.rdData = o.rdData ∧ (o.stepPulse = 1#1 → o'.stepDir = ~~~o.stepDir)) os os'

/-! ### The synchroniser and the pins -/

/-- An edge samples the pins that were captured SYNC_STAGES edges before it, or its own with no stage; fewer edges after a
state whose stages are all 00, as after reset, it samples 00 (20_memory.md R61, 70_reset_and_hazards.md R207). -/
def Obligations.SynchroniserDelaysPinsByItsStages : Prop :=
  ∀ (s t : State) (ps : List Ports) (vs : List Sample) (p : Ports) (v : Sample), s.Wf →
    (∀ q ∈ ps, q.rstN = 1#1) → List.Forall₂ Ports.PinsAre ps vs → p.PinsAre v → drive ps s = .next t →
      (s.params.syncStages ≤ ps.length →
        (vs ++ [v])[ps.length - s.params.syncStages]? = some (t.withPorts p).sampleIn) ∧
      (ps.length < s.params.syncStages → (∀ x ∈ s.sync, x = 0b00#2) → (t.withPorts p).sampleIn = 0b00#2)

/-- A pin that changes inside the capture window gives the edge the result of one of the two stable levels
(20_memory.md R61). Which one is a free value (log entry 4), so the statement holds for either. -/
def Obligations.ChangingPinActsAsOneOfTheTwoLevels : Prop :=
  ∀ (i : Instr) (s : State), s.params.ok = true →
    (s.ports.pinClk = .changing → ∃ l t, (l = .low ∨ l = .high) ∧
      exec i (s.withPorts { s.ports with pinClk := l }) = .next t ∧ exec i s = .next (t.withPorts s.ports)) ∧
    (s.ports.pinDt = .changing → ∃ l t, (l = .low ∨ l = .high) ∧
      exec i (s.withPorts { s.ports with pinDt := l }) = .next t ∧ exec i s = .next (t.withPorts s.ports))

/-! ### The speed estimator -/

/-- The event carries the speed current after the step: the value recomputed by a boundary of the same UPDATE, else the
held one, forced to 1 if it is 0; so `step_speed` is never 0 while `step_pulse` is 1 (41_decoder.md R116). -/
def Obligations.EventSpeedIsTheCurrentSpeedAndNotZero : Prop :=
  ∀ s t : State, s.Wf → s.ports.rstN = 1#1 → step s = .next t → t.evValid = 1#1 →
    t.evSpeed = max 1 (if s.AtBoundary then s.steps * 1000 / s.interval.toNat else s.speed) ∧ t.evSpeed ≠ 0

/-- SPEED changes only at a boundary or at a step that finds it 0, which makes it 1 (42_speed.md R148). -/
def Obligations.SpeedChangesOnlyAtBoundaryOrFirstStep : Prop :=
  ∀ s t : State, s.Wf → s.ports.rstN = 1#1 → step s = .next t → t.speed ≠ s.speed →
    s.ports.cmdUpd = 1#1 ∧ (s.AtBoundary ∨ (s.speed = 0 ∧ t.speed = 1 ∧ t.evValid = 1#1))

/-- STEPS counts the pulses of the window, CW and CCW alike, and wraps at its width; a boundary starts it at 0 and
counts the step of its own UPDATE (42_speed.md R140, R145, R146, R147). -/
def Obligations.StepsCountsThePulsesOfTheWindow : Prop :=
  ∀ s t : State, s.Wf → s.ports.rstN = 1#1 → step s = .next t →
    t.steps = ((if s.ports.cmdUpd = 1#1 ∧ s.AtBoundary then 0 else s.steps) + t.evValid.toNat) % 2 ^ s.params.stepW

/-- The boundary check sees time only as a difference modulo 2^TIME_W: shifting `now_ms` and LAST_T alike shifts LAST_T
and changes nothing else, across a wrap as well (42_speed.md R143). -/
def Obligations.TimeCountsOnlyAsADifference : Prop :=
  ∀ (s t : State) (d : Nat), s.Wf → exec .update s = .next t →
    exec .update { s with lastT := (s.lastT + d) % 2 ^ s.params.timeW
                          ports := { s.ports with nowMs := s.ports.nowMs + d } } =
      .next { t with lastT := (t.lastT + d) % 2 ^ s.params.timeW
                     ports := { s.ports with nowMs := s.ports.nowMs + d } }

/-- A write of INTERVAL moves neither LAST_T nor STEPS; the next UPDATE compares against and divides by the new INTERVAL
(42_speed.md R144). -/
def Obligations.IntervalWriteGovernsTheNextUpdate : Prop :=
  ∀ (s u t : State) (wd : CfgWord) (p : Ports), s.Wf → wd ≠ 0#16 → exec (.wrInterval wd) s = .next u →
    exec .update (u.withPorts p) = .next t →
      u.lastT = s.lastT ∧ u.steps = s.steps ∧
      (let e := (p.nowMs % 2 ^ s.params.timeW + 2 ^ s.params.timeW - s.lastT) % 2 ^ s.params.timeW
       (wd.toNat ≤ e → t.lastT = p.nowMs % 2 ^ s.params.timeW ∧
         t.speed = if t.evValid = 1#1 then max 1 (s.steps * 1000 / wd.toNat) else s.steps * 1000 / wd.toNat) ∧
       (e < wd.toNat → t.lastT = s.lastT))

/-- A full window: it holds N steps, those STEPS counts when the window is open at `s` and those its further edges pulse.
Where `s` is what the opening boundary UPDATE leaves, STEPS is 1 if that UPDATE stepped and else 0. With N inside STEP_W
bits, the boundary UPDATE that closes the window sets SPEED to N * 1000 / INTERVAL. A step of that UPDATE, and every step
after it until the following boundary, reports that value, or 1 if it is 0 (42_speed.md R149, R142). -/
def Obligations.FullWindowReportsStepsPerSecond : Prop :=
  ∀ (s t u v : State) (ps qs : List Ports) (p : Ports) (os os' : List Outputs), s.Wf →
    WithinWindow ps s → drive ps s = .next t → observe ps s = .next os →
    s.steps + (os.filter fun o => o.stepPulse == 1#1).length < 2 ^ s.params.stepW →
    p.Polls → (t.withPorts p).AtBoundary → step (t.withPorts p) = .next u →
    WithinWindow qs u → drive qs u = .next v → observe qs u = .next os' →
      (∀ (s₀ : State) (p₀ : Ports), s₀.Wf → p₀.Polls → (s₀.withPorts p₀).AtBoundary →
        step (s₀.withPorts p₀) = .next s → s.steps = s.evValid.toNat) ∧
      (let speed := (s.steps + (os.filter fun o => o.stepPulse == 1#1).length) * 1000 / t.interval.toNat
       (u.evValid = 0#1 → u.speed = speed) ∧
       (u.evValid = 1#1 → u.speed = max 1 speed ∧ u.evSpeed = max 1 speed) ∧
       ∀ o ∈ os', o.stepPulse = 1#1 → o.stepSpeed = max 1 speed)

/-- The first step after reset reports 1, whatever inputs came before it and however much time has passed
(42_speed.md R150). -/
def Obligations.FirstStepAfterResetReportsOne : Prop :=
  ∀ (prm : Params) (ports : Ports) (pending ps : List Ports) (os : List Outputs) (k : Nat) (o : Outputs),
    observe ps (State.afterReset prm ports pending) = .next os → os[k]? = some o → o.stepPulse = 1#1 →
    (∀ j o', j < k → os[j]? = some o' → o'.stepPulse = 0#1) → o.stepSpeed = 1

/-! ### Programs -/

/-- The first line of a loaded program runs at the coming edge: a command line runs exactly its command, with the line's
pins and time, a `RST` line resets; a stimulus field the line omits keeps its value from the line before (30_encoding.md
R84, R82). That the ports of the next line stand after the edge is the model's choice (log entry 1), and so is a program
as data (log entry 11). -/
def Obligations.LoadedLineRunsItsCommand : Prop :=
  ∀ (s : State) (prev : Ports) (l : AsmLine) (ls : List AsmLine), s.params.ok = true →
    let s' := s.load (assemble prev (l :: ls))
    s'.ports.nowMs = l.stim.time.getD prev.nowMs ∧
    (∀ v, l.stim.pins = some v → s'.ports.PinsAre v) ∧
    (l.stim.pins = none → s'.ports.pinDt = prev.pinDt ∧ s'.ports.pinClk = prev.pinClk) ∧
    (∀ i, l.cmd = .command i → i.wf = true →
      ∃ t, exec i s' = .next t ∧
        step s' = .next { t with ports := (assemble (l.ports prev) ls).headD s'.ports
                                 pending := (assemble (l.ports prev) ls).tail }) ∧
    (l.cmd = .rst →
      step s' = .next { State.afterReset s.params ((assemble (l.ports prev) ls).headD s'.ports)
                          (assemble (l.ports prev) ls).tail with draws := s.draws })
end

