-- ==== Sys2Proof/Laws/State.lean ====
section
/-! SUPPORT. One lemma per field per update of the state (Machine/Ops.lean), so that no proof unfolds a record update. -/

namespace Sys2Proof.Machine

variable (s : State)

/-! ### setHist -/

@[simp] theorem State.setHist_params (h : Nibble) : (s.setHist h).params = s.params := rfl
@[simp] theorem State.setHist_hist (h : Nibble) : (s.setHist h).hist = h := rfl
@[simp] theorem State.setHist_code (h : Nibble) : (s.setHist h).code = s.code := rfl
@[simp] theorem State.setHist_steps (h : Nibble) : (s.setHist h).steps = s.steps := rfl
@[simp] theorem State.setHist_lastT (h : Nibble) : (s.setHist h).lastT = s.lastT := rfl
@[simp] theorem State.setHist_speed (h : Nibble) : (s.setHist h).speed = s.speed := rfl
@[simp] theorem State.setHist_interval (h : Nibble) : (s.setHist h).interval = s.interval := rfl
@[simp] theorem State.setHist_ctrl (h : Nibble) : (s.setHist h).ctrl = s.ctrl := rfl
@[simp] theorem State.setHist_sync (h : Nibble) : (s.setHist h).sync = s.sync := rfl
@[simp] theorem State.setHist_evValid (h : Nibble) : (s.setHist h).evValid = s.evValid := rfl
@[simp] theorem State.setHist_evDir (h : Nibble) : (s.setHist h).evDir = s.evDir := rfl
@[simp] theorem State.setHist_evSpeed (h : Nibble) : (s.setHist h).evSpeed = s.evSpeed := rfl
@[simp] theorem State.setHist_ports (h : Nibble) : (s.setHist h).ports = s.ports := rfl
@[simp] theorem State.setHist_pending (h : Nibble) : (s.setHist h).pending = s.pending := rfl
@[simp] theorem State.setHist_draws (h : Nibble) : (s.setHist h).draws = s.draws := rfl

/-! ### setCode -/

@[simp] theorem State.setCode_params (c : CodeByte) : (s.setCode c).params = s.params := rfl
@[simp] theorem State.setCode_hist (c : CodeByte) : (s.setCode c).hist = s.hist := rfl
@[simp] theorem State.setCode_code (c : CodeByte) : (s.setCode c).code = c := rfl
@[simp] theorem State.setCode_steps (c : CodeByte) : (s.setCode c).steps = s.steps := rfl
@[simp] theorem State.setCode_lastT (c : CodeByte) : (s.setCode c).lastT = s.lastT := rfl
@[simp] theorem State.setCode_speed (c : CodeByte) : (s.setCode c).speed = s.speed := rfl
@[simp] theorem State.setCode_interval (c : CodeByte) : (s.setCode c).interval = s.interval := rfl
@[simp] theorem State.setCode_ctrl (c : CodeByte) : (s.setCode c).ctrl = s.ctrl := rfl
@[simp] theorem State.setCode_sync (c : CodeByte) : (s.setCode c).sync = s.sync := rfl
@[simp] theorem State.setCode_evValid (c : CodeByte) : (s.setCode c).evValid = s.evValid := rfl
@[simp] theorem State.setCode_evDir (c : CodeByte) : (s.setCode c).evDir = s.evDir := rfl
@[simp] theorem State.setCode_evSpeed (c : CodeByte) : (s.setCode c).evSpeed = s.evSpeed := rfl
@[simp] theorem State.setCode_ports (c : CodeByte) : (s.setCode c).ports = s.ports := rfl
@[simp] theorem State.setCode_pending (c : CodeByte) : (s.setCode c).pending = s.pending := rfl
@[simp] theorem State.setCode_draws (c : CodeByte) : (s.setCode c).draws = s.draws := rfl

/-! ### closeWindow -/

@[simp] theorem State.closeWindow_params (v now : Nat) : (s.closeWindow v now).params = s.params := rfl
@[simp] theorem State.closeWindow_hist (v now : Nat) : (s.closeWindow v now).hist = s.hist := rfl
@[simp] theorem State.closeWindow_code (v now : Nat) : (s.closeWindow v now).code = s.code := rfl
@[simp] theorem State.closeWindow_steps (v now : Nat) : (s.closeWindow v now).steps = 0 := rfl
@[simp] theorem State.closeWindow_lastT (v now : Nat) : (s.closeWindow v now).lastT = now := rfl
@[simp] theorem State.closeWindow_speed (v now : Nat) : (s.closeWindow v now).speed = v := rfl
@[simp] theorem State.closeWindow_interval (v now : Nat) : (s.closeWindow v now).interval = s.interval := rfl
@[simp] theorem State.closeWindow_ctrl (v now : Nat) : (s.closeWindow v now).ctrl = s.ctrl := rfl
@[simp] theorem State.closeWindow_sync (v now : Nat) : (s.closeWindow v now).sync = s.sync := rfl
@[simp] theorem State.closeWindow_evValid (v now : Nat) : (s.closeWindow v now).evValid = s.evValid := rfl
@[simp] theorem State.closeWindow_evDir (v now : Nat) : (s.closeWindow v now).evDir = s.evDir := rfl
@[simp] theorem State.closeWindow_evSpeed (v now : Nat) : (s.closeWindow v now).evSpeed = s.evSpeed := rfl
@[simp] theorem State.closeWindow_ports (v now : Nat) : (s.closeWindow v now).ports = s.ports := rfl
@[simp] theorem State.closeWindow_pending (v now : Nat) : (s.closeWindow v now).pending = s.pending := rfl
@[simp] theorem State.closeWindow_draws (v now : Nat) : (s.closeWindow v now).draws = s.draws := rfl

/-! ### setCount -/

@[simp] theorem State.setCount_params (n v : Nat) : (s.setCount n v).params = s.params := rfl
@[simp] theorem State.setCount_hist (n v : Nat) : (s.setCount n v).hist = s.hist := rfl
@[simp] theorem State.setCount_code (n v : Nat) : (s.setCount n v).code = s.code := rfl
@[simp] theorem State.setCount_steps (n v : Nat) : (s.setCount n v).steps = n := rfl
@[simp] theorem State.setCount_lastT (n v : Nat) : (s.setCount n v).lastT = s.lastT := rfl
@[simp] theorem State.setCount_speed (n v : Nat) : (s.setCount n v).speed = v := rfl
@[simp] theorem State.setCount_interval (n v : Nat) : (s.setCount n v).interval = s.interval := rfl
@[simp] theorem State.setCount_ctrl (n v : Nat) : (s.setCount n v).ctrl = s.ctrl := rfl
@[simp] theorem State.setCount_sync (n v : Nat) : (s.setCount n v).sync = s.sync := rfl
@[simp] theorem State.setCount_evValid (n v : Nat) : (s.setCount n v).evValid = s.evValid := rfl
@[simp] theorem State.setCount_evDir (n v : Nat) : (s.setCount n v).evDir = s.evDir := rfl
@[simp] theorem State.setCount_evSpeed (n v : Nat) : (s.setCount n v).evSpeed = s.evSpeed := rfl
@[simp] theorem State.setCount_ports (n v : Nat) : (s.setCount n v).ports = s.ports := rfl
@[simp] theorem State.setCount_pending (n v : Nat) : (s.setCount n v).pending = s.pending := rfl
@[simp] theorem State.setCount_draws (n v : Nat) : (s.setCount n v).draws = s.draws := rfl

/-! ### clearPulse -/

@[simp] theorem State.clearPulse_params : (s.clearPulse).params = s.params := rfl
@[simp] theorem State.clearPulse_hist : (s.clearPulse).hist = s.hist := rfl
@[simp] theorem State.clearPulse_code : (s.clearPulse).code = s.code := rfl
@[simp] theorem State.clearPulse_steps : (s.clearPulse).steps = s.steps := rfl
@[simp] theorem State.clearPulse_lastT : (s.clearPulse).lastT = s.lastT := rfl
@[simp] theorem State.clearPulse_speed : (s.clearPulse).speed = s.speed := rfl
@[simp] theorem State.clearPulse_interval : (s.clearPulse).interval = s.interval := rfl
@[simp] theorem State.clearPulse_ctrl : (s.clearPulse).ctrl = s.ctrl := rfl
@[simp] theorem State.clearPulse_sync : (s.clearPulse).sync = s.sync := rfl
@[simp] theorem State.clearPulse_evValid : (s.clearPulse).evValid = 0#1 := rfl
@[simp] theorem State.clearPulse_evDir : (s.clearPulse).evDir = s.evDir := rfl
@[simp] theorem State.clearPulse_evSpeed : (s.clearPulse).evSpeed = s.evSpeed := rfl
@[simp] theorem State.clearPulse_ports : (s.clearPulse).ports = s.ports := rfl
@[simp] theorem State.clearPulse_pending : (s.clearPulse).pending = s.pending := rfl
@[simp] theorem State.clearPulse_draws : (s.clearPulse).draws = s.draws := rfl

/-! ### raisePulse -/

@[simp] theorem State.raisePulse_params (d : Bit) : (s.raisePulse d).params = s.params := rfl
@[simp] theorem State.raisePulse_hist (d : Bit) : (s.raisePulse d).hist = s.hist := rfl
@[simp] theorem State.raisePulse_code (d : Bit) : (s.raisePulse d).code = s.code := rfl
@[simp] theorem State.raisePulse_steps (d : Bit) : (s.raisePulse d).steps = s.steps := rfl
@[simp] theorem State.raisePulse_lastT (d : Bit) : (s.raisePulse d).lastT = s.lastT := rfl
@[simp] theorem State.raisePulse_speed (d : Bit) : (s.raisePulse d).speed = s.speed := rfl
@[simp] theorem State.raisePulse_interval (d : Bit) : (s.raisePulse d).interval = s.interval := rfl
@[simp] theorem State.raisePulse_ctrl (d : Bit) : (s.raisePulse d).ctrl = s.ctrl := rfl
@[simp] theorem State.raisePulse_sync (d : Bit) : (s.raisePulse d).sync = s.sync := rfl
@[simp] theorem State.raisePulse_evValid (d : Bit) : (s.raisePulse d).evValid = 1#1 := rfl
@[simp] theorem State.raisePulse_evDir (d : Bit) : (s.raisePulse d).evDir = d := rfl
@[simp] theorem State.raisePulse_evSpeed (d : Bit) : (s.raisePulse d).evSpeed = s.speed := rfl
@[simp] theorem State.raisePulse_ports (d : Bit) : (s.raisePulse d).ports = s.ports := rfl
@[simp] theorem State.raisePulse_pending (d : Bit) : (s.raisePulse d).pending = s.pending := rfl
@[simp] theorem State.raisePulse_draws (d : Bit) : (s.raisePulse d).draws = s.draws := rfl

/-! ### setInterval -/

@[simp] theorem State.setInterval_params (v : CfgWord) : (s.setInterval v).params = s.params := rfl
@[simp] theorem State.setInterval_hist (v : CfgWord) : (s.setInterval v).hist = s.hist := rfl
@[simp] theorem State.setInterval_code (v : CfgWord) : (s.setInterval v).code = s.code := rfl
@[simp] theorem State.setInterval_steps (v : CfgWord) : (s.setInterval v).steps = s.steps := rfl
@[simp] theorem State.setInterval_lastT (v : CfgWord) : (s.setInterval v).lastT = s.lastT := rfl
@[simp] theorem State.setInterval_speed (v : CfgWord) : (s.setInterval v).speed = s.speed := rfl
@[simp] theorem State.setInterval_interval (v : CfgWord) : (s.setInterval v).interval = v := rfl
@[simp] theorem State.setInterval_ctrl (v : CfgWord) : (s.setInterval v).ctrl = s.ctrl := rfl
@[simp] theorem State.setInterval_sync (v : CfgWord) : (s.setInterval v).sync = s.sync := rfl
@[simp] theorem State.setInterval_evValid (v : CfgWord) : (s.setInterval v).evValid = s.evValid := rfl
@[simp] theorem State.setInterval_evDir (v : CfgWord) : (s.setInterval v).evDir = s.evDir := rfl
@[simp] theorem State.setInterval_evSpeed (v : CfgWord) : (s.setInterval v).evSpeed = s.evSpeed := rfl
@[simp] theorem State.setInterval_ports (v : CfgWord) : (s.setInterval v).ports = s.ports := rfl
@[simp] theorem State.setInterval_pending (v : CfgWord) : (s.setInterval v).pending = s.pending := rfl
@[simp] theorem State.setInterval_draws (v : CfgWord) : (s.setInterval v).draws = s.draws := rfl

/-! ### setPullup -/

@[simp] theorem State.setPullup_params (b : Bit) : (s.setPullup b).params = s.params := rfl
@[simp] theorem State.setPullup_hist (b : Bit) : (s.setPullup b).hist = s.hist := rfl
@[simp] theorem State.setPullup_code (b : Bit) : (s.setPullup b).code = s.code := rfl
@[simp] theorem State.setPullup_steps (b : Bit) : (s.setPullup b).steps = s.steps := rfl
@[simp] theorem State.setPullup_lastT (b : Bit) : (s.setPullup b).lastT = s.lastT := rfl
@[simp] theorem State.setPullup_speed (b : Bit) : (s.setPullup b).speed = s.speed := rfl
@[simp] theorem State.setPullup_interval (b : Bit) : (s.setPullup b).interval = s.interval := rfl
@[simp] theorem State.setPullup_ctrl (b : Bit) : (s.setPullup b).ctrl = (s.ctrl &&& 0xFFFE#16) ||| b.setWidth 16 := rfl
@[simp] theorem State.setPullup_sync (b : Bit) : (s.setPullup b).sync = s.sync := rfl
@[simp] theorem State.setPullup_evValid (b : Bit) : (s.setPullup b).evValid = s.evValid := rfl
@[simp] theorem State.setPullup_evDir (b : Bit) : (s.setPullup b).evDir = s.evDir := rfl
@[simp] theorem State.setPullup_evSpeed (b : Bit) : (s.setPullup b).evSpeed = s.evSpeed := rfl
@[simp] theorem State.setPullup_ports (b : Bit) : (s.setPullup b).ports = s.ports := rfl
@[simp] theorem State.setPullup_pending (b : Bit) : (s.setPullup b).pending = s.pending := rfl
@[simp] theorem State.setPullup_draws (b : Bit) : (s.setPullup b).draws = s.draws := rfl

/-! ### shiftSync -/

@[simp] theorem State.shiftSync_params (pins : Sample) : (s.shiftSync pins).params = s.params := rfl
@[simp] theorem State.shiftSync_hist (pins : Sample) : (s.shiftSync pins).hist = s.hist := rfl
@[simp] theorem State.shiftSync_code (pins : Sample) : (s.shiftSync pins).code = s.code := rfl
@[simp] theorem State.shiftSync_steps (pins : Sample) : (s.shiftSync pins).steps = s.steps := rfl
@[simp] theorem State.shiftSync_lastT (pins : Sample) : (s.shiftSync pins).lastT = s.lastT := rfl
@[simp] theorem State.shiftSync_speed (pins : Sample) : (s.shiftSync pins).speed = s.speed := rfl
@[simp] theorem State.shiftSync_interval (pins : Sample) : (s.shiftSync pins).interval = s.interval := rfl
@[simp] theorem State.shiftSync_ctrl (pins : Sample) : (s.shiftSync pins).ctrl = s.ctrl := rfl
@[simp] theorem State.shiftSync_sync (pins : Sample) : (s.shiftSync pins).sync = (pins :: s.sync).take s.params.syncStages := rfl
@[simp] theorem State.shiftSync_evValid (pins : Sample) : (s.shiftSync pins).evValid = s.evValid := rfl
@[simp] theorem State.shiftSync_evDir (pins : Sample) : (s.shiftSync pins).evDir = s.evDir := rfl
@[simp] theorem State.shiftSync_evSpeed (pins : Sample) : (s.shiftSync pins).evSpeed = s.evSpeed := rfl
@[simp] theorem State.shiftSync_ports (pins : Sample) : (s.shiftSync pins).ports = s.ports := rfl
@[simp] theorem State.shiftSync_pending (pins : Sample) : (s.shiftSync pins).pending = s.pending := rfl
@[simp] theorem State.shiftSync_draws (pins : Sample) : (s.shiftSync pins).draws = s.draws + 1 := rfl

/-! ### nextInputs -/

@[simp] theorem State.nextInputs_params : (s.nextInputs).params = s.params := rfl
@[simp] theorem State.nextInputs_hist : (s.nextInputs).hist = s.hist := rfl
@[simp] theorem State.nextInputs_code : (s.nextInputs).code = s.code := rfl
@[simp] theorem State.nextInputs_steps : (s.nextInputs).steps = s.steps := rfl
@[simp] theorem State.nextInputs_lastT : (s.nextInputs).lastT = s.lastT := rfl
@[simp] theorem State.nextInputs_speed : (s.nextInputs).speed = s.speed := rfl
@[simp] theorem State.nextInputs_interval : (s.nextInputs).interval = s.interval := rfl
@[simp] theorem State.nextInputs_ctrl : (s.nextInputs).ctrl = s.ctrl := rfl
@[simp] theorem State.nextInputs_sync : (s.nextInputs).sync = s.sync := rfl
@[simp] theorem State.nextInputs_evValid : (s.nextInputs).evValid = s.evValid := rfl
@[simp] theorem State.nextInputs_evDir : (s.nextInputs).evDir = s.evDir := rfl
@[simp] theorem State.nextInputs_evSpeed : (s.nextInputs).evSpeed = s.evSpeed := rfl
@[simp] theorem State.nextInputs_ports : (s.nextInputs).ports = s.pending.headD s.ports := rfl
@[simp] theorem State.nextInputs_pending : (s.nextInputs).pending = s.pending.tail := rfl
@[simp] theorem State.nextInputs_draws : (s.nextInputs).draws = s.draws := rfl

/-! ### withPorts -/

@[simp] theorem State.withPorts_params (p : Ports) : (s.withPorts p).params = s.params := rfl
@[simp] theorem State.withPorts_hist (p : Ports) : (s.withPorts p).hist = s.hist := rfl
@[simp] theorem State.withPorts_code (p : Ports) : (s.withPorts p).code = s.code := rfl
@[simp] theorem State.withPorts_steps (p : Ports) : (s.withPorts p).steps = s.steps := rfl
@[simp] theorem State.withPorts_lastT (p : Ports) : (s.withPorts p).lastT = s.lastT := rfl
@[simp] theorem State.withPorts_speed (p : Ports) : (s.withPorts p).speed = s.speed := rfl
@[simp] theorem State.withPorts_interval (p : Ports) : (s.withPorts p).interval = s.interval := rfl
@[simp] theorem State.withPorts_ctrl (p : Ports) : (s.withPorts p).ctrl = s.ctrl := rfl
@[simp] theorem State.withPorts_sync (p : Ports) : (s.withPorts p).sync = s.sync := rfl
@[simp] theorem State.withPorts_evValid (p : Ports) : (s.withPorts p).evValid = s.evValid := rfl
@[simp] theorem State.withPorts_evDir (p : Ports) : (s.withPorts p).evDir = s.evDir := rfl
@[simp] theorem State.withPorts_evSpeed (p : Ports) : (s.withPorts p).evSpeed = s.evSpeed := rfl
@[simp] theorem State.withPorts_ports (p : Ports) : (s.withPorts p).ports = p := rfl
@[simp] theorem State.withPorts_pending (p : Ports) : (s.withPorts p).pending = s.pending := rfl
@[simp] theorem State.withPorts_draws (p : Ports) : (s.withPorts p).draws = s.draws := rfl

/-! ### resetRegs -/

@[simp] theorem resetRegs_params : (resetRegs s).params = s.params := rfl
@[simp] theorem resetRegs_hist : (resetRegs s).hist = 0x0#4 := rfl
@[simp] theorem resetRegs_code : (resetRegs s).code = 0x00#8 := rfl
@[simp] theorem resetRegs_steps : (resetRegs s).steps = 0 := rfl
@[simp] theorem resetRegs_lastT : (resetRegs s).lastT = 0 := rfl
@[simp] theorem resetRegs_speed : (resetRegs s).speed = 0 := rfl
@[simp] theorem resetRegs_interval : (resetRegs s).interval = 100#16 := rfl
@[simp] theorem resetRegs_ctrl : (resetRegs s).ctrl = 0x0000#16 := rfl
@[simp] theorem resetRegs_sync : (resetRegs s).sync = List.replicate s.params.syncStages 0b00#2 := rfl
@[simp] theorem resetRegs_evValid : (resetRegs s).evValid = 0#1 := rfl
@[simp] theorem resetRegs_evDir : (resetRegs s).evDir = 0#1 := rfl
@[simp] theorem resetRegs_evSpeed : (resetRegs s).evSpeed = 0 := rfl
@[simp] theorem resetRegs_ports : (resetRegs s).ports = s.ports := rfl
@[simp] theorem resetRegs_pending : (resetRegs s).pending = s.pending := rfl
@[simp] theorem resetRegs_draws : (resetRegs s).draws = s.draws := rfl

end Sys2Proof.Machine
end

