-- ==== Sys2Proof/Laws/Ops.lean ====
section
/-! SUPPORT. What the shared operations of Machine/Ops.lean can do, said once. -/

namespace Sys2Proof.Machine

/-! ### Arithmetic -/

theorem trunc_lt (n v : Nat) : trunc n v < 2 ^ n := Nat.mod_lt _ (by positivity)

theorem trunc_eq_self {n v : Nat} (h : v < 2 ^ n) : trunc n v = v := Nat.mod_eq_of_lt h

theorem wrapSub_lt (n a b : Nat) : wrapSub n a b < 2 ^ n := Nat.mod_lt _ (by positivity)

/-- The wrap-around difference is the subtraction of bit vectors. -/
theorem wrapSub_eq_bitVec_sub (n a b : Nat) : wrapSub n a b = (BitVec.ofNat n a - BitVec.ofNat n b).toNat := by
  simp [wrapSub, BitVec.toNat_sub, Nat.add_comm]

/-- The difference is the one number below `2^n` that brings `b` to `a` modulo `2^n`. -/
theorem wrapSub_spec (n a b : Nat) : (b + wrapSub n a b) % 2 ^ n = a % 2 ^ n := by
  have hb : b % 2 ^ n < 2 ^ n := Nat.mod_lt _ (by positivity)
  have key : (b + (a + (2 ^ n - b % 2 ^ n))) = a + 2 ^ n * (b / 2 ^ n + 1) := by
    have := Nat.div_add_mod b (2 ^ n)
    rw [Nat.mul_add]; omega
  rw [wrapSub, Nat.add_mod_mod, key, Nat.add_mul_mod_self_left]

/-! ### The end of an edge -/

theorem completeEdge_of_ok {s : State} (h : s.params.ok = true) (t : State) : completeEdge s t = .next t := by
  simp [completeEdge, h]

theorem completeEdge_next {s t u : State} (h : completeEdge s t = .next u) : s.params.ok = true ∧ u = t := by
  unfold completeEdge at h
  split at h
  · rename_i hok; cases h; exact ⟨hok, rfl⟩
  · cases h

/-! ### The configuration space -/

/-- A configuration write does nothing, writes INTERVAL with a nonzero value, or writes CTRL.PULLUP. -/
theorem writeCfg_cases (a : CfgAddr) (v : CfgWord) (s : State) :
    (a = 0#2 ∧ v ≠ 0#16 ∧ writeCfg a v s = s.setInterval v) ∨
    (a = 1#2 ∧ writeCfg a v s = s.setPullup (v.extractLsb' 0 1)) ∨
    (a ≠ 1#2 ∧ (a = 0#2 → v = 0#16) ∧ writeCfg a v s = s) := by
  unfold writeCfg
  split
  · split
    · right; right; simp_all
    · left; simp_all
  · split
    · right; left; simp_all
    · right; right; simp_all

theorem writeCfg_interval_zero (s : State) : writeCfg 0#2 0#16 s = s := by simp [writeCfg]

theorem writeCfg_interval {v : CfgWord} (h : v ≠ 0#16) (s : State) : writeCfg 0#2 v s = s.setInterval v := by
  simp [writeCfg, h]

theorem writeCfg_ctrl (v : CfgWord) (s : State) : writeCfg 1#2 v s = s.setPullup (v.extractLsb' 0 1) := by
  simp [writeCfg]

theorem writeCfg_reserved {a : CfgAddr} (h : CfgAddr.reserved a = true) (v : CfgWord) (s : State) :
    writeCfg a v s = s := by
  have h0 : a ≠ 0#2 := by rintro rfl; simp [CfgAddr.reserved] at h
  have h1 : a ≠ 1#2 := by rintro rfl; simp [CfgAddr.reserved] at h
  simp [writeCfg, h0, h1]

/-- A configuration write leaves every register but INTERVAL and CTRL as it was. -/
theorem writeCfg_frame (a : CfgAddr) (v : CfgWord) (s : State) :
    ∃ iv c, writeCfg a v s = { s with interval := iv, ctrl := c } := by
  rcases writeCfg_cases a v s with ⟨-, -, h⟩ | ⟨-, h⟩ | ⟨-, -, h⟩ <;> rw [h]
  · exact ⟨v, s.ctrl, rfl⟩
  · exact ⟨s.interval, _, rfl⟩
  · exact ⟨s.interval, s.ctrl, rfl⟩

/-- Bit 0 of a word as a word of its own (20_memory.md R51: `zext_16`). -/
theorem bit0_setWidth (v : CfgWord) : (v.extractLsb' 0 1).setWidth 16 = v &&& 1#16 := by
  apply BitVec.eq_of_getLsbD_eq
  intro i hi
  rcases Nat.eq_zero_or_pos i with rfl | h
  · simp
  · have : i ≠ 0 := by omega
    simp [this, BitVec.getLsbD_one]

@[simp] theorem pullup_setPullup (s : State) (b : Bit) : (s.setPullup b).pullup = b := by
  apply BitVec.eq_of_getLsbD_eq
  intro i hi
  have : i = 0 := by omega
  subst this
  simp [State.pullup]

@[simp] theorem setPullup_setPullup (s : State) (b c : Bit) : (s.setPullup b).setPullup c = s.setPullup c := by
  have h : ∀ x : CfgWord, ((x &&& 0xFFFE#16) ||| b.setWidth 16) &&& 0xFFFE#16 = x &&& 0xFFFE#16 := by
    intro x
    rcases (by decide : ∀ b : Bit, b = 0#1 ∨ b = 1#1) b with rfl | rfl
    · simp [BitVec.and_assoc]
    · rw [BitVec.and_or_distrib_right, BitVec.and_assoc]; simp
  simp [State.setPullup, h]

theorem memRead_reserved {a : CfgAddr} (h : CfgAddr.reserved a = true) (s : State) : memRead s a = 0#16 := by
  have h0 : a ≠ 0#2 := by rintro rfl; simp [CfgAddr.reserved] at h
  have h1 : a ≠ 1#2 := by rintro rfl; simp [CfgAddr.reserved] at h
  simp [memRead, h0, h1]

/-! ### The reset state is what a reset edge leaves -/

theorem resetRegs_eq_afterReset (s : State) :
    resetRegs s = { State.afterReset s.params s.ports s.pending with draws := s.draws } := rfl

end Sys2Proof.Machine
end

