-- ==== Sys2Proof/Laws/PerInstr.lean ====
section
/-! SUPPORT. The family EncodeSelectsOwnRow, one lemma per constructor of Instr: the word of a well-formed command has
the fixed bits of the command's own row of the opcode map (30_encoding.md R79). -/

namespace Sys2Proof.Laws.EncodeSelectsOwnRow

/-- The command's own row of the opcode map selects the command's word. -/
def Statement (i : Instr) : Prop :=
  i.wf = true → ∃ r ∈ opcodeMap, r.mnemonic = i.mnemonic ∧ r.selects (encode i) = true

/-- The masked word is made of the masked fields: the four fields lie side by side. -/
theorem ofFields_and (u w mu mw : Bit) (a ma : CfgAddr) (d md : CfgWord) :
    Cmd20.ofFields u w a d &&& Cmd20.ofFields mu mw ma md =
      Cmd20.ofFields (u &&& mu) (w &&& mw) (a &&& ma) (d &&& md) := by
  unfold Cmd20.ofFields
  rw [← BitVec.and_append, ← BitVec.and_append, ← BitVec.and_append]

theorem nop : Statement .nop := by
  intro _; exact ⟨_, .head _, rfl, rfl⟩

theorem wrInterval (wd : CfgWord) : Statement (.wrInterval wd) := by
  intro _
  refine ⟨_, .tail _ (.head _), rfl, ?_⟩
  have h := ofFields_and 0#1 1#1 1#1 1#1 0#2 3#2 wd 0#16
  simp only [OpRow.selects, encode, beq_iff_eq]
  exact h.trans (by simp [Cmd20.ofFields])

theorem wrCtrl (wd : CfgWord) : Statement (.wrCtrl wd) := by
  intro _
  refine ⟨_, .tail _ (.tail _ (.head _)), rfl, ?_⟩
  have h := ofFields_and 0#1 1#1 1#1 1#1 1#2 3#2 wd 0#16
  simp only [OpRow.selects, encode, beq_iff_eq]
  exact h.trans (by simp [Cmd20.ofFields])

/-- A reserved address has its bit 1 set. -/
theorem reserved_and {wa : CfgAddr} (h : CfgAddr.reserved wa = true) : wa &&& 2#2 = 2#2 := by
  revert wa; decide

theorem wrRsvd (wa : CfgAddr) (wd : CfgWord) : Statement (.wrRsvd wa wd) := by
  intro hw
  refine ⟨_, .tail _ (.tail _ (.tail _ (.head _))), rfl, ?_⟩
  have h := ofFields_and 0#1 1#1 1#1 1#1 wa 2#2 wd 0#16
  simp only [OpRow.selects, encode, beq_iff_eq]
  exact h.trans (by simp [Cmd20.ofFields, reserved_and hw])

theorem update : Statement .update := by
  intro _; exact ⟨_, .tail _ (.tail _ (.tail _ (.tail _ (.head _)))), rfl, rfl⟩

theorem updateWrInterval (wd : CfgWord) : Statement (.updateWrInterval wd) := by
  intro _
  refine ⟨_, .tail _ (.tail _ (.tail _ (.tail _ (.tail _ (.head _))))), rfl, ?_⟩
  have h := ofFields_and 1#1 1#1 1#1 1#1 0#2 3#2 wd 0#16
  simp only [OpRow.selects, encode, beq_iff_eq]
  exact h.trans (by simp [Cmd20.ofFields])

theorem updateWrCtrl (wd : CfgWord) : Statement (.updateWrCtrl wd) := by
  intro _
  refine ⟨_, .tail _ (.tail _ (.tail _ (.tail _ (.tail _ (.tail _ (.head _)))))), rfl, ?_⟩
  have h := ofFields_and 1#1 1#1 1#1 1#1 1#2 3#2 wd 0#16
  simp only [OpRow.selects, encode, beq_iff_eq]
  exact h.trans (by simp [Cmd20.ofFields])

theorem updateWrRsvd (wa : CfgAddr) (wd : CfgWord) : Statement (.updateWrRsvd wa wd) := by
  intro hw
  refine ⟨_, .tail _ (.tail _ (.tail _ (.tail _ (.tail _ (.tail _ (.tail _ (.head _))))))), rfl, ?_⟩
  have h := ofFields_and 1#1 1#1 1#1 1#1 wa 2#2 wd 0#16
  simp only [OpRow.selects, encode, beq_iff_eq]
  exact h.trans (by simp [Cmd20.ofFields, reserved_and hw])

end Sys2Proof.Laws.EncodeSelectsOwnRow
end

