-- ==== Sys2Proof/Laws/Update.lean ====
section
/-! SUPPORT. What the parts of UPDATE can do, said once each (Machine/Validator.lean to Machine/Update.lean). -/

namespace Sys2Proof.Machine

/-! ### Validator and decoder -/

/-- The closed form of the table (40_validator.md R102): valid exactly when one pin changed. -/
theorem lut_eq_one_iff (h : Nibble) :
    lut h = 1#1 ↔ (h.extractLsb' 2 2 ^^^ h.extractLsb' 0 2 = 1#2 ∨ h.extractLsb' 2 2 ^^^ h.extractLsb' 0 2 = 2#2) := by
  revert h; decide

theorem bit_eq_one_of_ne_zero {b : Bit} (h : b ≠ 0#1) : b = 1#1 := by
  revert b; decide

/-- The history keeps the previous sample and takes the new one in (41_decoder.md R110). -/
theorem shiftHist_eq_append (h : Nibble) (smp : Sample) : shiftHist h smp = h.extractLsb' 0 2 ++ smp := by
  revert h smp; decide

/-- The code keeps its newer nibble and takes the new one in (41_decoder.md R111). -/
theorem accumulate_eq_append (c : CodeByte) (h : Nibble) : accumulate c h = c.extractLsb' 0 4 ++ h := by
  apply BitVec.eq_of_getLsbD_eq
  intro i hi
  unfold accumulate
  rw [BitVec.getLsbD_or, BitVec.getLsbD_shiftLeft, BitVec.getLsbD_setWidth, BitVec.getLsbD_append]
  by_cases h4 : i < 4
  · simp [h4, hi]
  · have hlt : i - 4 < 4 := by omega
    simp [h4, hi, hlt, BitVec.getLsbD_of_ge h i (by omega)]

theorem cwSig_ne_ccwSig (p : Params) : cwSig p ≠ ccwSig p := by
  unfold cwSig ccwSig; split <;> decide

theorem classify_eq_cw_iff (p : Params) (c : CodeByte) : classify p c = some .cw ↔ c = cwSig p := by
  unfold classify; split <;> simp_all

theorem classify_eq_ccw_iff (p : Params) (c : CodeByte) : classify p c = some .ccw ↔ c = ccwSig p := by
  unfold classify
  have := cwSig_ne_ccwSig p
  split <;> simp_all

/-- `decode` rejects the transition and shifts the history only, or accepts it, and then the classifier reads the code
it has just written (41_decoder.md R113). -/
theorem decodeSample_cases (smp : Sample) (s : State) :
    (lut (shiftHist s.hist smp) = 0#1 ∧ decodeSample smp s = (none, s.setHist (shiftHist s.hist smp))) ∨
    (lut (shiftHist s.hist smp) = 1#1 ∧
      decodeSample smp s =
        (classify s.params (accumulate s.code (shiftHist s.hist smp)),
         (s.setHist (shiftHist s.hist smp)).setCode (accumulate s.code (shiftHist s.hist smp)))) := by
  by_cases h : lut (shiftHist s.hist smp) = 0#1
  · left; simp [decodeSample, h]
  · right; simp [decodeSample, bit_eq_one_of_ne_zero h]

/-! ### Speed estimator -/

theorem speedQuotient_of_pos (steps : Nat) {interval : Nat} (h : interval ≠ 0) :
    speedQuotient steps interval = steps * 1000 / interval := by
  simp [speedQuotient, h]

/-- The boundary check closes the window or changes nothing (42_speed.md R140). -/
theorem speedWindow_cases (now : Nat) (s : State) :
    (s.interval.toNat ≤ elapsed now s ∧
      speedWindow now s = s.closeWindow (trunc s.params.speedW (speedQuotient s.steps s.interval.toNat)) now) ∨
    (elapsed now s < s.interval.toNat ∧ speedWindow now s = s) := by
  by_cases h : s.interval.toNat ≤ elapsed now s
  · left; simp [speedWindow, h]
  · right; simp [speedWindow, h]; omega

/-- The boundary check writes SPEED, STEPS and LAST_T at most. -/
theorem speedWindow_frame (now : Nat) (s : State) :
    ∃ v n t, speedWindow now s = { s with speed := v, steps := n, lastT := t } := by
  rcases speedWindow_cases now s with ⟨-, h⟩ | ⟨-, h⟩ <;> rw [h]
  · exact ⟨_, _, _, rfl⟩
  · exact ⟨s.speed, s.steps, s.lastT, rfl⟩

/-! ### UPDATE -/

/-- UPDATE in its three outcomes: an invalid transition, a valid one that completes no signature, and a step
(41_decoder.md R120). -/
theorem update_cases (smp : Sample) (now : Nat) (s : State) :
    (lut (shiftHist s.hist smp) = 0#1 ∧
      update smp now s = ((speedWindow now s).setHist (shiftHist s.hist smp)).clearPulse) ∨
    (lut (shiftHist s.hist smp) = 1#1 ∧ classify s.params (accumulate s.code (shiftHist s.hist smp)) = none ∧
      update smp now s = (((speedWindow now s).setHist (shiftHist s.hist smp)).setCode
        (accumulate s.code (shiftHist s.hist smp))).clearPulse) ∨
    (lut (shiftHist s.hist smp) = 1#1 ∧ ∃ d, classify s.params (accumulate s.code (shiftHist s.hist smp)) = some d ∧
      update smp now s = (stepAccount (((speedWindow now s).setHist (shiftHist s.hist smp)).setCode
        (accumulate s.code (shiftHist s.hist smp)))).raisePulse d.bit) := by
  obtain ⟨v, n, t, hw⟩ := speedWindow_frame now s
  have hh : (speedWindow now s).hist = s.hist := by rw [hw]
  have hc : (speedWindow now s).code = s.code := by rw [hw]
  have hp : (speedWindow now s).params = s.params := by rw [hw]
  rcases decodeSample_cases smp (speedWindow now s) with ⟨hl, hd⟩ | ⟨hl, hd⟩ <;> rw [hh] at hl <;>
    simp only [hh, hc, hp] at hd
  · left; exact ⟨hl, by simp [update, hd, stepEvent]⟩
  · right
    cases hcl : classify s.params (accumulate s.code (shiftHist s.hist smp)) with
    | none => left; exact ⟨hl, rfl, by simp [update, hd, hcl, stepEvent]⟩
    | some d => right; exact ⟨hl, d, rfl, by simp [update, hd, hcl, stepEvent]⟩

/-- UPDATE writes no configuration register, no synchroniser stage and no field of the environment. -/
theorem update_frame (smp : Sample) (now : Nat) (s : State) :
    (update smp now s).params = s.params ∧ (update smp now s).interval = s.interval ∧
      (update smp now s).ctrl = s.ctrl ∧ (update smp now s).sync = s.sync ∧ (update smp now s).ports = s.ports ∧
      (update smp now s).pending = s.pending ∧ (update smp now s).draws = s.draws := by
  obtain ⟨v, n, t, hw⟩ := speedWindow_frame now s
  rcases update_cases smp now s with ⟨-, h⟩ | ⟨-, -, h⟩ | ⟨-, d, -, h⟩ <;> simp [h, stepAccount, hw]

/-- The history and whether an event is raised do not depend on the speed estimator. -/
theorem update_hist (smp : Sample) (now : Nat) (s : State) : (update smp now s).hist = shiftHist s.hist smp := by
  rcases update_cases smp now s with ⟨-, h⟩ | ⟨-, -, h⟩ | ⟨-, d, -, h⟩ <;> simp [h, stepAccount]

end Sys2Proof.Machine
end

