-- ==== Sys2Proof/Laws/Step.lean ====
section
/-! SUPPORT. What `exec` and `step` can do, and runs. -/

namespace Sys2Proof.Machine

/-- The state a command leaves, as a total function: the next state of `exec` when the parameters are legal. -/
def afterCommand (i : Instr) (s : State) : State :=
  match i with
  | .nop => idleEdge s
  | .wrInterval wd => writeCfg 0#2 wd (idleEdge s)
  | .wrCtrl wd => writeCfg 1#2 wd (idleEdge s)
  | .wrRsvd wa wd => writeCfg wa wd (idleEdge s)
  | .update => updateEdge s
  | .updateWrInterval wd => writeCfg 0#2 wd (updateEdge s)
  | .updateWrCtrl wd => writeCfg 1#2 wd (updateEdge s)
  | .updateWrRsvd wa wd => writeCfg wa wd (updateEdge s)

theorem exec_eq_completeEdge (i : Instr) (s : State) : exec i s = completeEdge s (afterCommand i s) := by
  cases i <;> rfl

/-- `exec` answers a next state only with legal parameters, and then the one of `afterCommand`. -/
theorem exec_next {i : Instr} {s t : State} (h : exec i s = .next t) : s.params.ok = true ∧ t = afterCommand i s :=
  completeEdge_next (exec_eq_completeEdge i s ▸ h)

/-- The state an edge leaves, as a total function. -/
def afterEdge (s : State) : State :=
  if s.ports.rstN = 0#1 then (resetRegs s).nextInputs else (afterCommand (decode s.ports.cmd20) s).nextInputs

theorem step_eq_completeEdge (s : State) : step s = completeEdge s (afterEdge s) := by
  unfold step afterEdge
  split
  · rfl
  · rw [exec_eq_completeEdge]
    by_cases hok : s.params.ok = true <;> simp [completeEdge, hok]

/-- What a step can do: the parameters are legal, and the edge is a reset edge or a command. -/
theorem step_cases {s t : State} (h : step s = .next t) :
    s.params.ok = true ∧
      ((s.ports.rstN = 0#1 ∧ t = (resetRegs s).nextInputs) ∨
       (s.ports.rstN = 1#1 ∧ t = (afterCommand (decode s.ports.cmd20) s).nextInputs)) := by
  obtain ⟨hok, rfl⟩ := completeEdge_next (step_eq_completeEdge s ▸ h)
  refine ⟨hok, ?_⟩
  unfold afterEdge
  split
  · left; exact ⟨‹_›, rfl⟩
  · right; exact ⟨bit_eq_one_of_ne_zero ‹_›, rfl⟩

/-- The fields of the command port come back out of the command word. -/
theorem decode_cmd20 (p : Ports) : decode p.cmd20 = decodeFields p.cmdUpd p.cmdWe p.cmdWa p.cmdWd := by
  have h : ∀ (u w : Bit) (a : CfgAddr) (d : CfgWord),
      (Cmd20.ofFields u w a d).upd = u ∧ (Cmd20.ofFields u w a d).we = w ∧ (Cmd20.ofFields u w a d).wa = a ∧
        (Cmd20.ofFields u w a d).wd = d := by
    intro u w a d
    refine ⟨?_, ?_, ?_, ?_⟩ <;> ext i hi <;>
      simp [Cmd20.ofFields, Cmd20.upd, Cmd20.we, Cmd20.wa, Cmd20.wd] <;> grind
  obtain ⟨h1, h2, h3, h4⟩ := h p.cmdUpd p.cmdWe p.cmdWa p.cmdWd
  simp [decode, Ports.cmd20, h1, h2, h3, h4]

/-! ### Runs -/

@[simp] theorem drive_nil (s : State) : drive [] s = .next s := rfl

theorem drive_cons {p : Ports} {ps : List Ports} {s u : State} (h : drive (p :: ps) s = .next u) :
    ∃ t, step (s.withPorts p) = .next t ∧ drive ps t = .next u := by
  unfold drive at h
  split at h
  · exact ⟨_, ‹_›, h⟩
  · cases h
  · cases h

theorem observe_cons {p : Ports} {ps : List Ports} {s : State} {os : List Outputs}
    (h : observe (p :: ps) s = .next os) :
    ∃ t os', step (s.withPorts p) = .next t ∧ observe ps t = .next os' ∧ os = (t.withPorts p).outputs :: os' := by
  unfold observe at h
  split at h
  · split at h
    · cases h; exact ⟨_, _, ‹_›, ‹_›, rfl⟩
    · cases h
    · cases h
  · cases h
  · cases h

theorem samplesPolled_cons {p : Ports} {s t : State} (h : step (s.withPorts p) = .next t) (ps : List Ports) :
    samplesPolled (p :: ps) s = (if p.Polls then [(s.withPorts p).sampleIn] else []) ++ samplesPolled ps t := by
  simp only [samplesPolled, h]

theorem validNibbles_cons {p : Ports} {s t : State} (h : step (s.withPorts p) = .next t) (ps : List Ports) :
    validNibbles (p :: ps) s = (if p.Polls ∧ lut t.hist = 1#1 then [t.hist] else []) ++ validNibbles ps t := by
  simp only [validNibbles, h]

/-- A window that stays open over a run stays open over the rest of the run. -/
theorem withinWindow_cons {p : Ports} {ps : List Ports} {s t : State} (h : WithinWindow (p :: ps) s)
    (ht : step (s.withPorts p) = .next t) : p.rstN = 1#1 ∧
      (p.cmdUpd = 1#1 → ¬ (s.withPorts p).AtBoundary) ∧ WithinWindow ps t := ⟨h.1, h.2.1, h.2.2 t ht⟩

/-- What every edge keeps, whatever the ports carry, a run keeps. -/
theorem drive_keeps {I : State → Prop} (hp : ∀ s p, I s → I (s.withPorts p)) (hs : ∀ s t, I s → step s = .next t → I t)
    (ps : List Ports) : ∀ s t, I s → drive ps s = .next t → I t := by
  induction ps with
  | nil => intro s t hi h; cases h; exact hi
  | cons p ps ih =>
    intro s t hi h
    obtain ⟨u, hu, ht⟩ := drive_cons h
    exact ih u t (hs _ _ (hp s p hi) hu) ht

end Sys2Proof.Machine
end

