-- ==== Sys2Proof/Laws/Wf.lean ====
section
/-! SUPPORT. Every operation of an edge keeps the invariant `State.Wf` (Safety.lean). -/

namespace Sys2Proof.Machine

theorem Wf_pow_pos (n : Nat) : 0 < 2 ^ n := by positivity

theorem setHist_keeps_wf {s : State} (h : s.Wf) (v : Nibble) : (s.setHist v).Wf := h

theorem setCode_keeps_wf {s : State} (h : s.Wf) (v : CodeByte) : (s.setCode v).Wf := h

theorem clearPulse_keeps_wf {s : State} (h : s.Wf) : s.clearPulse.Wf := h

theorem raisePulse_keeps_wf {s : State} (h : s.Wf) (d : Bit) : (s.raisePulse d).Wf := by
  obtain ⟨h1, h2, h3, h4, -, h6, h7, h8⟩ := h
  exact ⟨h1, h2, h3, h4, h4, h6, h7, h8⟩

theorem withPorts_keeps_wf {s : State} (h : s.Wf) (p : Ports) : (s.withPorts p).Wf := h

theorem nextInputs_keeps_wf {s : State} (h : s.Wf) : s.nextInputs.Wf := h

theorem shiftSync_keeps_wf {s : State} (h : s.Wf) (pins : Sample) : (s.shiftSync pins).Wf := by
  obtain ⟨h1, h2, h3, h4, h5, h6, h7, h8⟩ := h
  refine ⟨h1, h2, h3, h4, h5, ?_, h7, h8⟩
  simp [h6]

theorem closeWindow_keeps_wf {s : State} (h : s.Wf) {v now : Nat} (hv : v < 2 ^ s.params.speedW)
    (hn : now < 2 ^ s.params.timeW) : (s.closeWindow v now).Wf := by
  obtain ⟨h1, h2, h3, h4, h5, h6, h7, h8⟩ := h
  exact ⟨h1, Wf_pow_pos _, hn, hv, h5, h6, h7, h8⟩

theorem speedWindow_keeps_wf {s : State} (h : s.Wf) {now : Nat} (hn : now < 2 ^ s.params.timeW) :
    (speedWindow now s).Wf := by
  rcases speedWindow_cases now s with ⟨-, e⟩ | ⟨-, e⟩ <;> rw [e]
  · exact closeWindow_keeps_wf h (trunc_lt _ _) hn
  · exact h

theorem one_lt_of_ok {p : Params} (h : p.ok = true) : 1 < 2 ^ p.speedW := by
  simp only [Params.ok, Bool.and_eq_true, decide_eq_true_eq] at h
  exact Nat.one_lt_two_pow (by omega)

theorem stepAccount_keeps_wf {s : State} (h : s.Wf) : (stepAccount s).Wf := by
  obtain ⟨h1, h2, h3, h4, h5, h6, h7, h8⟩ := h
  refine ⟨h1, trunc_lt _ _, h3, ?_, h5, h6, h7, h8⟩
  simp only [stepAccount, State.setCount_speed, State.setCount_params]
  split
  · exact one_lt_of_ok h1
  · exact h4

theorem writeCfg_keeps_wf {s : State} (h : s.Wf) (a : CfgAddr) (v : CfgWord) : (writeCfg a v s).Wf := by
  obtain ⟨h1, h2, h3, h4, h5, h6, h7, h8⟩ := h
  rcases writeCfg_cases a v s with ⟨-, hv, e⟩ | ⟨-, e⟩ | ⟨-, -, e⟩ <;> rw [e]
  · exact ⟨h1, h2, h3, h4, h5, h6, hv, h8⟩
  · refine ⟨h1, h2, h3, h4, h5, h6, h7, ?_⟩
    have hb : ∀ b : Bit, ((s.ctrl &&& 0xFFFE#16) ||| b.setWidth 16) &&& 0xFFFE#16 = 0#16 := by
      rw [h8]; decide
    exact hb _
  · exact ⟨h1, h2, h3, h4, h5, h6, h7, h8⟩

theorem resetRegs_keeps_ok {s : State} (h : s.params.ok = true) : (resetRegs s).Wf := by
  refine ⟨h, Wf_pow_pos _, Wf_pow_pos _, Wf_pow_pos _, Wf_pow_pos _, ?_, ?_, ?_⟩ <;> simp

theorem nowIn_lt (s : State) : s.nowIn < 2 ^ s.params.timeW := trunc_lt _ _

end Sys2Proof.Machine
end

