-- ==== Sys2Proof/Tests/Slice0.lean ====
section
/-! SUPPORT. Tests of the model's own, and for every obligation with hypotheses a witness that meets them all. The
expected values come from the examples of 95_test_vectors.md, named beside each test, or are worked out by hand from the
rule named there. -/

namespace Sys2Proof.Tests

open Sys2Proof.Machine

/-! ### Small states -/

/-- The parameters of the vectors: the defaults with no synchroniser stage (95_test_vectors.md, common conventions). -/
def vec : Params := { Params.default with syncStages := 0 }

/-- No command, the pins at `{DT, CLK}` = `v`, the time `t`. -/
def idle (v : Sample) (t : Nat) : Ports := Ports.quiet.stimulate { pins := some v, time := some t }

/-- An UPDATE with the pins at `v` and the time `t`. -/
def poll (v : Sample) (t : Nat) : Ports := { idle v t with cmdUpd := 1#1 }

/-- A reset edge with the pins at `v` and the time `t`. -/
def rst (v : Sample) (t : Nat) : Ports := { idle v t with rstN := 0#1 }

/-- A state after reset with HIST, CODE and the coming ports given. -/
def mk (h : Nibble) (c : CodeByte) (p : Ports) : State :=
  { State.afterReset vec p [] with hist := h, code := c }

/-- One poll short of a clockwise step: the sample `11` completes 0x17. -/
def nearCw (t : Nat) : State := mk 0x1#4 0x01#8 (poll 0b11#2 t)

/-- The same with two stages, both holding `11`. -/
def nearCw2 : State := { nearCw 0 with params := Params.default, sync := [0b11#2, 0b11#2] }

/-- The next state of an outcome, or the given state where there is none. -/
def nextOf (o : Host.Outcome State Fault Refusal) (d : State) : State :=
  match o with
  | .next t => t
  | .fault _ => d
  | .refused _ => d

/-- The outputs of an observed run, or none. -/
def seen (o : Host.Outcome (List Outputs) Fault Refusal) : List Outputs :=
  match o with
  | .next os => os
  | .fault _ => []
  | .refused _ => []

/-- The refusal of an outcome. -/
def refusalOf (o : Host.Outcome State Fault Refusal) : Option Refusal :=
  match o with
  | .next _ => none
  | .fault _ => none
  | .refused r => some r

/-! ### Well-formedness: each check refuses an ill-formed term -/

/-- Addresses 0 and 1 are not reserved (20_memory.md R51). -/
theorem test_wf_refuses_wrRsvd_interval : (Instr.wrRsvd 0#2 5#16).wf = false := by decide
theorem test_wf_refuses_wrRsvd_ctrl : (Instr.wrRsvd 1#2 5#16).wf = false := by decide
theorem test_wf_refuses_updateWrRsvd_interval : (Instr.updateWrRsvd 0#2 5#16).wf = false := by decide
theorem test_wf_refuses_updateWrRsvd_ctrl : (Instr.updateWrRsvd 1#2 5#16).wf = false := by decide
/-- Each constraint of 00_scope.md R8 and R9, just broken. -/
theorem test_params_refuse_stepW_0 : ({ Params.default with stepW := 0 } : Params).ok = false := by decide
theorem test_params_refuse_speedW_25 : ({ Params.default with speedW := 25 } : Params).ok = false := by decide
theorem test_params_refuse_timeW_15 : ({ Params.default with timeW := 15 } : Params).ok = false := by decide
/-- The smallest legal widths; S6 of 95_test_vectors.md uses STEP_W = 2, SPEED_W = 12. -/
theorem test_params_accept_smallest :
    (Params.mk true 1 11 16 0).ok = true ∧ (Params.mk false 2 12 16 0).ok = true ∧ Params.default.ok = true := by decide

/-! ### Decoding: one word a row, bit by bit from the encodings of 30_encoding.md R79 -/

theorem test_decode_nop : decode 0b00_10_1010101010101010#20 = .nop := by decide
theorem test_decode_wrInterval : decode 0b0100_1000000000000001#20 = .wrInterval 0x8001#16 := by decide
theorem test_decode_wrCtrl : decode 0b0101_0111111111111110#20 = .wrCtrl 0x7FFE#16 := by decide
theorem test_decode_wrRsvd : decode 0b0110_0000000000000011#20 = .wrRsvd 2#2 3#16 := by decide
theorem test_decode_wrRsvd_3 : decode 0b0111_1100000000000000#20 = .wrRsvd 3#2 0xC000#16 := by decide
theorem test_decode_update : decode 0b10_11_0000000000000001#20 = .update := by decide
theorem test_decode_updateWrInterval : decode 0b1100_0000000000110010#20 = .updateWrInterval 50#16 := by decide
theorem test_decode_updateWrCtrl : decode 0b1101_0000000000000001#20 = .updateWrCtrl 1#16 := by decide
theorem test_decode_updateWrRsvd : decode 0b1110_0000000000000000#20 = .updateWrRsvd 2#2 0#16 := by decide
theorem test_decode_updateWrRsvd_3 : decode 0b1111_0000000000000000#20 = .updateWrRsvd 3#2 0#16 := by decide
/-- A number with a bit above bit 19 is rejected by name. -/
theorem test_decodeWord_rejects_bit_20 :
    (match decodeWord 0x100000 with
      | .ok _ => none
      | .error e => some e) = some (.widerThanCmd20 0x100000) := by decide
/-- The words of the programs, edge by edge: P1 edges 2 and 3, H2 edges 11 and 15 (95_test_vectors.md). -/
theorem test_encode_words : encode (.wrCtrl 1#16) = 0x50001#20 ∧ encode (.wrInterval 50#16) = 0x40032#20 ∧
    encode (.updateWrInterval 50#16) = 0xC0032#20 ∧ encode (.updateWrRsvd 3#2 0#16) = 0xF0000#20 := by decide

/-! ### The parts of UPDATE -/

/-- The table, all entries: V1 of 95_test_vectors.md. -/
theorem test_lut_V1 : ((List.range 16).map fun h => lut (BitVec.ofNat 4 h)) =
    [0#1, 1#1, 1#1, 0#1, 1#1, 0#1, 0#1, 1#1, 1#1, 0#1, 0#1, 1#1, 0#1, 1#1, 1#1, 0#1] := by decide
/-- The signatures of both polarities: W3. -/
theorem test_signatures_W3 : cwSig vec = 0x17#8 ∧ ccwSig vec = 0x2B#8 ∧
    cwSig { vec with dtHighOnCw := true } = 0x2B#8 ∧ ccwSig { vec with dtHighOnCw := true } = 0x17#8 := by decide
/-- V-SW, third row: a late boundary divides by INTERVAL. -/
theorem test_speedWindow_late : (speedWindow 250 { nearCw 0 with steps := 5 }).speed = 50 ∧
    (speedWindow 250 { nearCw 0 with steps := 5 }).lastT = 250 := by decide
/-- V-SW, sixth row: the largest quotient, exact. -/
theorem test_speedWindow_largest :
    (speedWindow 1 { nearCw 0 with steps := 65535, interval := 1#16 }).speed = 65535000 := by decide
/-- V-SW, eighth and ninth rows: the elapsed time across a wrap of the time base. -/
theorem test_speedWindow_wrap :
    speedWindow 0x53 { nearCw 0 with steps := 3, lastT := 0xFFFFFFF0 } = { nearCw 0 with steps := 3, lastT := 0xFFFFFFF0 } ∧
    speedWindow 0x54 { nearCw 0 with steps := 3, lastT := 0xFFFFFFF0 } =
      { nearCw 0 with speed := 30, steps := 0, lastT := 0x54 } := by decide
/-- V-SA, second and fourth rows: the forced 1 and the wrap of STEPS. -/
theorem test_stepAccount : (stepAccount { nearCw 0 with steps := 9 }).speed = 1 ∧
    (stepAccount { nearCw 0 with steps := 65535, speed := 1 }).steps = 0 := by decide

/-! ### One step of each command -/

/-- NOP clears the pulse and captures the pins: Y1 edge 6 (`10` enters, the event speed holds). -/
theorem test_nop_Y1 : nextOf (exec .nop { nearCw2 with ports := idle 0b10#2 5, evValid := 1#1, evSpeed := 1 }) State.reset =
    { nearCw2 with ports := idle 0b10#2 5, evSpeed := 1, sync := [0b10#2, 0b11#2], draws := 1 } := by decide
/-- H1 edges 2 and 3: 0 is ignored, 65535 is written. -/
theorem test_wrInterval_H1 : (nextOf (exec (.wrInterval 0#16) (nearCw 0)) State.reset).interval = 100#16 ∧
    (nextOf (exec (.wrInterval 0xFFFF#16) (nearCw 0)) State.reset).interval = 0xFFFF#16 := by decide
/-- H1 edges 5 and 6: bits 15:1 are ignored. -/
theorem test_wrCtrl_H1 : (nextOf (exec (.wrCtrl 0xFFFE#16) (nearCw 0)) State.reset).ctrl = 0#16 ∧
    (nextOf (exec (.wrCtrl 0xFFFF#16) (nearCw 0)) State.reset).ctrl = 1#16 := by decide
/-- H1 edges 7 and 8: a write to a reserved address shows nowhere. -/
theorem test_wrRsvd_H1 : nextOf (exec (.wrRsvd 2#2 0xFFFF#16) (nearCw 0)) State.reset = { nearCw 0 with draws := 1 } ∧
    nextOf (exec (.wrRsvd 3#2 0x1234#16) (nearCw 0)) State.reset = { nearCw 0 with draws := 1 } := by decide
/-- D1 row 3, with STEPS and SPEED as section 2.2 states: the whole next state. -/
theorem test_update_cw_D1 : nextOf (exec .update (nearCw 0)) State.reset =
    { nearCw 0 with hist := 0x7#4, code := 0x17#8, steps := 1, speed := 1, evValid := 1#1, evSpeed := 1, draws := 1 } := by
  decide
/-- D2 row 3: the counter-clockwise step. -/
theorem test_update_ccw_D2 :
    (nextOf (exec .update (mk 0x2#4 0x02#8 (poll 0b11#2 0))) State.reset).outputs =
      { stepPulse := 1#1, stepDir := 1#1, stepSpeed := 1, padPullupEn := 0#1, rdData := 100#16 } := by decide
/-- H2 edge 11: a boundary under the old INTERVAL, a step counted in the new window, and only then the write. -/
theorem test_updateWrInterval_H2 :
    nextOf (exec (.updateWrInterval 50#16)
        { mk 0x1#4 0x81#8 (poll 0b11#2 100) with steps := 2, speed := 1, evSpeed := 1 }) State.reset =
      { mk 0x7#4 0x17#8 (poll 0b11#2 100) with
        steps := 1, speed := 20, lastT := 100, interval := 50#16, evValid := 1#1, evSpeed := 20, draws := 1 } := by decide
/-- H2 edge 14: an invalid nibble 0xF, then CTRL = 1. -/
theorem test_updateWrCtrl_H2 : nextOf (exec (.updateWrCtrl 1#16) (mk 0xF#4 0x17#8 (poll 0b11#2 0))) State.reset =
    { mk 0xF#4 0x17#8 (poll 0b11#2 0) with ctrl := 1#16, draws := 1 } := by decide
/-- H2 edge 15: exactly an UPDATE. -/
theorem test_updateWrRsvd_H2 : nextOf (exec (.updateWrRsvd 3#2 0#16) (nearCw 0)) State.reset =
    nextOf (exec .update (nearCw 0)) State.reset := by decide
/-- RS1: the reset line with pins `10` at time 500 gives the reset state. -/
theorem test_reset_RS1 :
    nextOf (step { mk 0x7#4 0x17#8 (rst 0b10#2 500) with
        steps := 1, speed := 1, interval := 7#16, ctrl := 1#16, evValid := 1#1, evSpeed := 1 }) State.reset =
      State.afterReset vec (rst 0b10#2 500) [] := by decide
/-- The host's word for WR_INTERVAL 7 runs as the first step after reset. -/
theorem test_withFetchWord_runs : (nextOf (step (State.reset.withFetchWord 20 0x40007)) State.reset).interval = 7#16 := by
  decide
/-- Parameters that break R9 are refused by name. -/
theorem test_bad_params_refused :
    refusalOf (step { State.reset with params := { Params.default with speedW := 25 } }) = some .badParameters := by decide

/-! ### Witnesses: concrete states and operands that meet the hypotheses of a statement -/

theorem witness_DecodeOfEncode : (Instr.wrRsvd 2#2 0xFFFF#16).wf = true ∧ (Instr.updateWrRsvd 3#2 0#16).wf = true ∧
    (Instr.wrInterval 0#16).wf = true := by decide

theorem witness_StepRuns_next : State.reset.ports.rstN = 1#1 ∧
    ∃ t, exec (decode State.reset.ports.cmd20) State.reset = .next t := ⟨by decide, _, rfl⟩

/-- An instance with illegal parameters, for the clause of a refusal. -/
def badInst : State := { State.reset with params := { Params.default with speedW := 25 } }

theorem witness_StepRuns_refused : badInst.ports.rstN = 1#1 ∧
    exec (decode badInst.ports.cmd20) badInst = .refused .badParameters := ⟨by decide, rfl⟩

theorem witness_legal_parameters_every_port_class :
    (nearCw 0).params.ok = true ∧ (nearCw 0).ports.rstN = 1#1 ∧ (nearCw 0).params.syncStages = 0 ∧
      nearCw2.params.ok = true ∧ nearCw2.params.syncStages = 2 ∧
      (mk 0#4 0#8 (rst 0b11#2 9)).params.ok = true ∧ (mk 0#4 0#8 (rst 0b11#2 9)).ports.rstN = 0#1 := by decide

/-- Both sides of the constraint of R9, at its edge, with the largest operands of the second clause. -/
theorem witness_ParametersThatTruncate : badInst.params.speedW < badInst.params.stepW + 10 ∧
    ({ Params.default with speedW := 26 } : Params).stepW + 10 ≤ ({ Params.default with speedW := 26 } : Params).speedW ∧
    65535 < 2 ^ ({ Params.default with speedW := 26 } : Params).stepW ∧ (1 : Nat) ≤ 1 := by decide

/-- Each kind of illegal parameter, just outside, and the least legal ones. -/
theorem witness_IllegalParameters :
    badInst.params.speedW < badInst.params.stepW + 10 ∧ ({ vec with timeW := 15 } : Params).timeW < 16 ∧
      ({ vec with stepW := 0 } : Params).stepW = 0 ∧ (Params.mk true 1 11 16 0).stepW + 10 ≤ (Params.mk true 1 11 16 0).speedW ∧
      16 ≤ (Params.mk true 1 11 16 0).timeW ∧ 1 ≤ (Params.mk true 1 11 16 0).stepW := by decide

theorem witness_NoRunChanges : ∃ t, drive [rst 0b11#2 3, poll 0b01#2 4] (nearCw 0) = .next t := ⟨_, rfl⟩

theorem witness_HeldReset : (nearCw 0).params.ok = true ∧ [rst 0b01#2 1, rst 0b11#2 2] ≠ [] ∧
    ∀ p ∈ [rst 0b01#2 1, rst 0b11#2 2], p.rstN = 0#1 := by decide

theorem witness_ResetEdgeEnds : Params.default.ok = true ∧ (rst 0b10#2 500).rstN = 0#1 := by decide

theorem witness_EveryEdge_command : (nearCw 100).Wf ∧ ∃ t, step (nearCw 100) = .next t := ⟨by decide, _, rfl⟩

theorem witness_EveryEdge_reset : (mk 0x7#4 0x17#8 (rst 0b11#2 9)).Wf ∧
    ∃ t, step (mk 0x7#4 0x17#8 (rst 0b11#2 9)) = .next t := ⟨by decide, _, rfl⟩

theorem witness_Nop_word : 0x3FFFF#20 &&& 0xC0000#20 = 0x00000#20 := by decide

/-- Both reserved addresses; for WR_RSVD, and for the poll with a reserved write. -/
theorem witness_reserved_addresses : State.reset.params.ok = true ∧ ((2#2 : CfgAddr) = 2#2 ∨ (2#2 : CfgAddr) = 3#2) ∧
    ((3#2 : CfgAddr) = 2#2 ∨ (3#2 : CfgAddr) = 3#2) := by decide

theorem witness_WriteCfg : State.reset.ctrl &&& 0xFFFE#16 = 0#16 ∧
    { State.reset with ctrl := 1#16 }.ctrl &&& 0xFFFE#16 = 0#16 := by decide

theorem witness_CtrlReaches : ∃ t, step (nearCw 100) = .next t := ⟨_, rfl⟩

/-- An invalid transition (the repeated `11`, h = 15) over CODE = 0x17, at a boundary: D3 row 6. -/
theorem witness_UpdateWithoutAStep_invalid :
    (mk 0x7#4 0x17#8 (poll 0b11#2 100)).Wf ∧ (mk 0x7#4 0x17#8 (poll 0b11#2 100)).AtBoundary ∧
      ((mk 0x7#4 0x17#8 (poll 0b11#2 100)).capturedPins :: (mk 0x7#4 0x17#8 (poll 0b11#2 100)).sync)[
        (mk 0x7#4 0x17#8 (poll 0b11#2 100)).params.syncStages]? = some 0b11#2 ∧
      ((mk 0x7#4 0x17#8 (poll 0b11#2 100)).hist.extractLsb' 0 2 ++ 0b11#2 : Nibble) ∈
        [0#4, 3#4, 5#4, 6#4, 9#4, 10#4, 12#4, 15#4] := by decide

/-- A valid transition (h = 14) that completes no signature, just before a boundary: D1 row 4. -/
theorem witness_UpdateWithoutAStep_no_signature :
    (mk 0x7#4 0x17#8 (poll 0b10#2 99)).Wf ∧ ¬ (mk 0x7#4 0x17#8 (poll 0b10#2 99)).AtBoundary ∧
      ((mk 0x7#4 0x17#8 (poll 0b10#2 99)).capturedPins :: (mk 0x7#4 0x17#8 (poll 0b10#2 99)).sync)[
        (mk 0x7#4 0x17#8 (poll 0b10#2 99)).params.syncStages]? = some 0b10#2 ∧
      (let h : Nibble := (mk 0x7#4 0x17#8 (poll 0b10#2 99)).hist.extractLsb' 0 2 ++ 0b10#2
       let c : CodeByte := (mk 0x7#4 0x17#8 (poll 0b10#2 99)).code.extractLsb' 0 4 ++ h
       c ≠ 0x17#8 ∧ c ≠ 0x2B#8) := by decide

/-- A clockwise step at a boundary, with no stage. -/
theorem witness_UpdateWithAStep_boundary :
    (nearCw 100).Wf ∧ (nearCw 100).AtBoundary ∧
      ((nearCw 100).capturedPins :: (nearCw 100).sync)[(nearCw 100).params.syncStages]? = some 0b11#2 ∧
      (let h : Nibble := (nearCw 100).hist.extractLsb' 0 2 ++ 0b11#2
       let c : CodeByte := (nearCw 100).code.extractLsb' 0 4 ++ h
       h ∈ [1#4, 2#4, 4#4, 7#4, 8#4, 11#4, 13#4, 14#4] ∧ (c = 0x17#8 ∨ c = 0x2B#8)) := by decide

/-- A counter-clockwise step within the window, through two stages. -/
theorem witness_UpdateWithAStep_synchronised :
    let s := { nearCw2 with hist := 0x2#4, code := 0x02#8 }
    s.Wf ∧ ¬ s.AtBoundary ∧ (s.capturedPins :: s.sync)[s.params.syncStages]? = some 0b11#2 ∧
      (let h : Nibble := s.hist.extractLsb' 0 2 ++ 0b11#2
       let c : CodeByte := s.code.extractLsb' 0 4 ++ h
       h ∈ [1#4, 2#4, 4#4, 7#4, 8#4, 11#4, 13#4, 14#4] ∧ (c = 0x17#8 ∨ c = 0x2B#8)) := by decide

theorem witness_Pulse : (nearCw 0).ports.rstN = 1#1 ∧ ∃ t, step (nearCw 0) = .next t ∧ t.evValid = 1#1 :=
  ⟨by decide, _, rfl, by decide⟩

/-- A repeated sample, a step, and a reset edge: each clause of the event registers. -/
theorem witness_EventRegistersHold :
    (mk 0x7#4 0x17#8 (poll 0b11#2 0)).ports.rstN = 1#1 ∧
    (∃ t, step (mk 0x7#4 0x17#8 (poll 0b11#2 0)) = .next t ∧ t.evValid = 0#1) ∧
    (∃ t, step (nearCw 0) = .next t ∧ t.evValid = 1#1 ∧
      (decodeSample (nearCw 0).sampleIn (nearCw 0)).1 = some .cw) ∧
    ∃ t, step (mk 0x7#4 0x17#8 (rst 0b11#2 0)) = .next t :=
  ⟨by decide, ⟨_, rfl, by decide⟩, ⟨_, rfl, by decide, by decide⟩, _, rfl⟩

theorem witness_NoStepAtTheFirst : (mk 0x0#4 0x00#8 (poll 0b01#2 0)).code = 0x00#8 ∧
    ∃ t, step (mk 0x0#4 0x00#8 (poll 0b01#2 0)) = .next t ∧ t.hist = 1#4 := ⟨by decide, _, rfl, by decide⟩

/-- D8: after the clockwise step the two transitions `01`, `00`, with a NOP, a repeated sample and a write between them,
the second transition at a poll with a write. -/
def reversal : List Ports :=
  [poll 0b01#2 0, idle 0b00#2 0, poll 0b01#2 0, { idle 0b01#2 0 with cmdWe := 1#1, cmdWd := 7#16 },
    { poll 0b00#2 0 with cmdWe := 1#1, cmdWa := 1#2 }]

theorem witness_TwoValidTransitions : (∀ p ∈ reversal, p.rstN = 1#1) ∧
    (∃ t, drive reversal (mk 0x7#4 0x17#8 Ports.quiet) = .next t ∧ t.code = 0xD4#8) ∧
    validNibbles reversal (mk 0x7#4 0x17#8 Ports.quiet) = [] ++ [0xD#4, 0x4#4] :=
  ⟨by decide, ⟨_, rfl, by decide⟩, by decide⟩

/-- A rest, with the glitch at the coming poll. -/
def glitchAt (rest glitch : Sample) : State := mk (0b00#2 ++ rest) 0x17#8 (poll glitch 0)

/-- What the first clause asks of a rest and a glitch, the second poll being back at the rest. -/
abbrev GlitchRuns (rest glitch : Sample) : Prop :=
  (glitchAt rest glitch).hist.extractLsb' 0 2 = rest ∧ (glitchAt rest glitch).sampleIn = glitch ∧
    ∃ u t, exec .update (glitchAt rest glitch) = .next u ∧ (u.withPorts (poll rest 0)).sampleIn = rest ∧
      exec .update (u.withPorts (poll rest 0)) = .next t

/-- The glitches D4a to D4d from their rests: each row of the first clause. -/
theorem witness_SingleGlitch : GlitchRuns 0b00#2 0b01#2 ∧ GlitchRuns 0b00#2 0b10#2 ∧ GlitchRuns 0b11#2 0b10#2 ∧
    GlitchRuns 0b11#2 0b01#2 :=
  ⟨⟨by decide, by decide, _, _, rfl, by decide, rfl⟩, ⟨by decide, by decide, _, _, rfl, by decide, rfl⟩,
    ⟨by decide, by decide, _, _, rfl, by decide, rfl⟩, ⟨by decide, by decide, _, _, rfl, by decide, rfl⟩⟩

/-- The half-step rests of the second clause: D5 row 4, and its mirror. -/
theorem witness_SingleGlitch_half_step :
    (let s := mk 0x5#4 0x01#8 (poll 0b11#2 0)
     s.params.ok = true ∧ s.hist.extractLsb' 0 2 = 0b01#2 ∧ s.code.extractLsb' 0 4 = 0x1#4 ∧ s.sampleIn = 0b11#2) ∧
    (let s := mk 0xA#4 0x02#8 (poll 0b11#2 0)
     s.params.ok = true ∧ s.hist.extractLsb' 0 2 = 0b10#2 ∧ s.code.extractLsb' 0 4 = 0x2#4 ∧ s.sampleIn = 0b11#2) := by decide

/-- One cycle: each level held for one poll, with a NOP while the pins bounce and a write between the polls. -/
def cycle (x y : Sample) : List Ports :=
  [poll 0b00#2 0, poll x 1, idle 0b00#2 1, poll 0b11#2 2, { idle 0b00#2 2 with cmdWe := 1#1, cmdWd := 7#16 }, poll y 3,
    poll 0b00#2 4]

/-- What the statement asks of a run over one cycle, each order. -/
abbrev CycleRuns (x y : Sample) : Prop :=
  (∀ p ∈ cycle x y, p.rstN = 1#1) ∧
    samplesPolled (cycle x y) (mk 0#4 0#8 Ports.quiet) =
      List.replicate 1 0b00#2 ++ [((0 : Nat), (0 : Nat), (0 : Nat), (0 : Nat))].flatMap (fun n =>
        List.replicate (n.1 + 1) x ++ List.replicate (n.2.1 + 1) 0b11#2 ++ List.replicate (n.2.2.1 + 1) y ++
          List.replicate (n.2.2.2 + 1) 0b00#2)

theorem witness_CleanRotation : (mk 0#4 0#8 Ports.quiet).params.ok = true ∧
    (mk 0#4 0#8 Ports.quiet).hist.extractLsb' 0 2 = 0b00#2 ∧ CycleRuns 0b01#2 0b10#2 ∧ CycleRuns 0b10#2 0b01#2 ∧
    (∃ os, observe (cycle 0b01#2 0b10#2) (mk 0#4 0#8 Ports.quiet) = .next os) ∧
    ∃ os, observe (cycle 0b10#2 0b01#2) (mk 0#4 0#8 Ports.quiet) = .next os :=
  ⟨by decide, by decide, ⟨by decide, by decide⟩, ⟨by decide, by decide⟩, ⟨_, rfl⟩, _, rfl⟩

/-- A run with a pulse. -/
theorem witness_PolaritySwap : ∃ t o, drive [poll 0b11#2 0] (nearCw 0) = .next t ∧
    observe [poll 0b11#2 0] (nearCw 0) = .next [o] ∧ o.stepPulse = 1#1 := ⟨_, _, rfl, rfl, by decide⟩

/-- Exactly SYNC_STAGES edges, one fewer than that from stages that are all 00, and no stage. -/
theorem witness_Synchroniser :
    State.reset.Wf ∧ (mk 0#4 0#8 Ports.quiet).Wf ∧ (∀ q ∈ [poll 0b01#2 0, idle 0b11#2 1], q.rstN = 1#1) ∧
      List.Forall₂ Ports.PinsAre [poll 0b01#2 0, idle 0b11#2 1] [0b01#2, 0b11#2] ∧ (poll 0b10#2 2).PinsAre 0b10#2 ∧
      (∃ t, drive [poll 0b01#2 0, idle 0b11#2 1] State.reset = .next t) ∧
      (∃ t, drive [poll 0b01#2 0] State.reset = .next t) ∧ (∀ x ∈ State.reset.sync, x = 0b00#2) ∧
      State.reset.params.syncStages = 2 ∧ (mk 0#4 0#8 Ports.quiet).params.syncStages = 0 ∧
      (∃ t, drive [] (mk 0#4 0#8 Ports.quiet) = .next t) :=
  ⟨by decide, by decide, by decide, .cons (by decide) (.cons (by decide) .nil), by decide, ⟨_, rfl⟩, ⟨_, rfl⟩, by decide,
    by decide, by decide, ⟨_, rfl⟩⟩

theorem witness_ChangingPin : { nearCw 0 with ports := { poll 0b11#2 0 with pinClk := .changing } }.params.ok = true ∧
    { poll 0b11#2 0 with pinClk := .changing }.pinClk = .changing ∧
    { poll 0b11#2 0 with pinDt := .changing }.pinDt = .changing := by decide

/-- A step at a boundary and a step within the window. -/
theorem witness_EventSpeed : (nearCw 100).Wf ∧ (nearCw 0).Wf ∧ (nearCw 100).ports.rstN = 1#1 ∧
    (nearCw 0).ports.rstN = 1#1 ∧ (∃ t, step (nearCw 100) = .next t ∧ t.evValid = 1#1) ∧
    ∃ t, step (nearCw 0) = .next t ∧ t.evValid = 1#1 :=
  ⟨by decide, by decide, by decide, by decide, ⟨_, rfl, by decide⟩, _, rfl, by decide⟩

/-- SPEED changed by a boundary without a step, and by a step without a boundary. -/
theorem witness_SpeedChanges :
    (let s := { mk 0x0#4 0x00#8 (poll 0b00#2 100) with steps := 2 }
     s.Wf ∧ s.ports.rstN = 1#1 ∧ ∃ t, step s = .next t ∧ t.speed ≠ s.speed) ∧
    (nearCw 0).Wf ∧ (nearCw 0).ports.rstN = 1#1 ∧ ∃ t, step (nearCw 0) = .next t ∧ t.speed ≠ (nearCw 0).speed :=
  ⟨⟨by decide, by decide, _, rfl, by decide⟩, by decide, by decide, _, rfl, by decide⟩

/-- A step that wraps STEPS. -/
theorem witness_StepsCounts : { nearCw 0 with steps := 65535 }.Wf ∧ { nearCw 0 with steps := 65535 }.ports.rstN = 1#1 ∧
    ∃ t, step { nearCw 0 with steps := 65535 } = .next t ∧ t.steps = 0 := ⟨by decide, by decide, _, rfl, by decide⟩

theorem witness_TimeCounts : (nearCw 100).Wf ∧ ∃ t, exec .update (nearCw 100) = .next t := ⟨by decide, _, rfl⟩

/-- The new interval 50, one UPDATE just at it and one just before it: S7. -/
theorem witness_IntervalWrite : { nearCw 2 with steps := 1 }.Wf ∧ 50#16 ≠ 0#16 ∧
    ∃ u, exec (.wrInterval 50#16) { nearCw 2 with steps := 1 } = .next u ∧
      (∃ t, exec .update (u.withPorts (poll 0b11#2 50)) = .next t) ∧
      (∃ t, exec .update (u.withPorts (poll 0b11#2 49)) = .next t) ∧
      (50#16).toNat ≤ (50 % 2 ^ 32 + 2 ^ 32 - 0) % 2 ^ 32 ∧ (49 % 2 ^ 32 + 2 ^ 32 - 0) % 2 ^ 32 < (50#16).toNat :=
  ⟨by decide, by decide, _, rfl, ⟨_, rfl⟩, ⟨_, rfl⟩, by decide, by decide⟩

/-- S3 edge 12: the opening boundary UPDATE itself steps, so STEPS = 1. The window holds one edge more and is closed at
t = 200 without a step, and the edge after it lies in the next window. -/
theorem witness_FullWindow_opening_step :
    (nearCw 0).Wf ∧ (poll 0b11#2 100).Polls ∧ ((nearCw 0).withPorts (poll 0b11#2 100)).AtBoundary ∧
      ∃ s t o u v o', step ((nearCw 0).withPorts (poll 0b11#2 100)) = .next s ∧ s.Wf ∧ s.steps = 1 ∧
        WithinWindow [poll 0b11#2 199] s ∧ drive [poll 0b11#2 199] s = .next t ∧
        observe [poll 0b11#2 199] s = .next [o] ∧
        s.steps + ([o].filter fun o => o.stepPulse == 1#1).length < 2 ^ s.params.stepW ∧ (poll 0b11#2 200).Polls ∧
        (t.withPorts (poll 0b11#2 200)).AtBoundary ∧ step (t.withPorts (poll 0b11#2 200)) = .next u ∧ u.evValid = 0#1 ∧
        WithinWindow [poll 0b10#2 299] u ∧ drive [poll 0b10#2 299] u = .next v ∧
        observe [poll 0b10#2 299] u = .next [o'] :=
  ⟨by decide, by decide, by decide, _, _, _, _, _, _, rfl, by decide, by decide,
    ⟨by decide, by decide, fun _ _ => trivial⟩, rfl, rfl, by decide, by decide, by decide, rfl, by decide,
    ⟨by decide, by decide, fun _ _ => trivial⟩, rfl, rfl⟩

/-- An empty window, closed at t = 100 by an UPDATE with a step. -/
theorem witness_FullWindow_closing_step :
    (nearCw 0).Wf ∧ WithinWindow [] (nearCw 0) ∧ drive [] (nearCw 0) = .next (nearCw 0) ∧
      observe [] (nearCw 0) = .next [] ∧ (nearCw 0).steps + 0 < 2 ^ (nearCw 0).params.stepW ∧ (poll 0b11#2 100).Polls ∧
      ((nearCw 0).withPorts (poll 0b11#2 100)).AtBoundary ∧
      ∃ u, step ((nearCw 0).withPorts (poll 0b11#2 100)) = .next u ∧ u.evValid = 1#1 ∧ WithinWindow [] u ∧
        drive [] u = .next u ∧ observe [] u = .next [] :=
  ⟨by decide, trivial, rfl, rfl, by decide, by decide, by decide, _, rfl, by decide, trivial, rfl, rfl⟩

/-- An empty window closed at t = 100 without a step, and a step at the edge after it: the last clause. -/
theorem witness_FullWindow_later_step :
    (mk 0x0#4 0x00#8 (poll 0b01#2 100)).Wf ∧ (poll 0b01#2 100).Polls ∧
      ((mk 0x0#4 0x00#8 (poll 0b01#2 100)).withPorts (poll 0b01#2 100)).AtBoundary ∧
      ∃ u v o, step ((mk 0x0#4 0x00#8 (poll 0b01#2 100)).withPorts (poll 0b01#2 100)) = .next u ∧
        WithinWindow [poll 0b11#2 101] u ∧ drive [poll 0b11#2 101] u = .next v ∧
        observe [poll 0b11#2 101] u = .next [o] ∧ o.stepPulse = 1#1 :=
  ⟨by decide, by decide, by decide, _, _, _, rfl, ⟨by decide, by decide, fun _ _ => trivial⟩, rfl, rfl, by decide⟩

/-- From reset, with a boundary before it: the samples `01`, `11` step at the second edge. -/
theorem witness_FirstStep :
    ∃ o o', observe [poll 0b01#2 150, poll 0b11#2 151] (State.afterReset vec Ports.quiet []) = .next [o, o'] ∧
      [o, o'][1]? = some o' ∧ o'.stepPulse = 1#1 ∧ ∀ j x, j < 1 → [o, o'][j]? = some x → x.stepPulse = 0#1 := by
  refine ⟨_, _, rfl, rfl, by decide, ?_⟩
  intro j x hj hx
  obtain rfl : j = 0 := by omega
  cases hx
  decide

/-- A command line with pins and time, and a `RST` line with neither. -/
theorem witness_LoadedLine :
    State.reset.params.ok = true ∧
      (AsmLine.mk (.command (.wrRsvd 2#2 0#16)) { pins := some 0b11#2, time := some 7 }).cmd =
        .command (.wrRsvd 2#2 0#16) ∧ (Instr.wrRsvd 2#2 0#16).wf = true ∧
      (AsmLine.mk (.command (.wrRsvd 2#2 0#16)) { pins := some 0b11#2, time := some 7 }).stim.pins = some 0b11#2 ∧
      (AsmLine.mk .rst { pins := none, time := none }).cmd = .rst ∧
      (AsmLine.mk .rst { pins := none, time := none }).stim.pins = none := by decide

end Sys2Proof.Tests
end

section
/-! Which instances are refused, and why a legal one truncates no quotient (00_scope.md R8, R9). -/

namespace Sys2Proof.Machine

/-! ### Legal parameters -/

/-- The three ranges of 00_scope.md R8 and R9 in arithmetic. -/
theorem ok_iff (p : Params) : p.ok = true ↔ 1 ≤ p.stepW ∧ p.stepW + 10 ≤ p.speedW ∧ 16 ≤ p.timeW := by
  simp [Params.ok, and_assoc]

theorem completeEdge_of_not_ok {s : State} (h : ¬ s.params.ok = true) (t : State) :
    completeEdge s t = .refused .badParameters := by
  simp [completeEdge, h]

theorem step_of_ok {s : State} (h : s.params.ok = true) : step s = .next (afterEdge s) := by
  rw [step_eq_completeEdge, completeEdge_of_ok h]

theorem exec_of_ok {s : State} (h : s.params.ok = true) (i : Instr) : exec i s = .next (afterCommand i s) := by
  rw [exec_eq_completeEdge, completeEdge_of_ok h]

/-- Every edge and every command ends in `completeEdge`, which looks at the parameters alone. -/
theorem step_exec_refused_of_not_ok {s : State} (h : ¬ s.params.ok = true) :
    step s = .refused .badParameters ∧ ∀ i : Instr, exec i s = .refused .badParameters := by
  constructor
  · rw [step_eq_completeEdge, completeEdge_of_not_ok h]
  · intro i
    rw [exec_eq_completeEdge, completeEdge_of_not_ok h]

/-! ### The width of the quotient -/

theorem thousand_steps_le {w n : Nat} (h : n < 2 ^ w) : n * 1000 ≤ (2 ^ w - 1) * 1000 :=
  Nat.mul_le_mul_right 1000 (Nat.le_sub_one_of_lt h)

/-- A factor of 1000 costs fewer than 10 bits (00_scope.md R9). -/
theorem max_steps_thousand_lt (w : Nat) : (2 ^ w - 1) * 1000 < 2 ^ (w + 10) := by
  have hpos : 0 < 2 ^ w := Nat.two_pow_pos w
  rw [pow_add]
  omega

/-- The quotient is at most the product, which fits in `STEP_W + 10` bits. -/
theorem thousand_steps_div_lt {w v n : Nat} (hn : n < 2 ^ w) (hv : w + 10 ≤ v) (d : Nat) : n * 1000 / d < 2 ^ v :=
  calc n * 1000 / d ≤ n * 1000 := Nat.div_le_self _ _
    _ ≤ (2 ^ w - 1) * 1000 := thousand_steps_le hn
    _ < 2 ^ (w + 10) := max_steps_thousand_lt w
    _ ≤ 2 ^ v := Nat.pow_le_pow_right (by decide) hv

/-! ### The obligations -/

/-- Settles O8: SPEED_W below STEP_W + 10 makes the parameters illegal, and above it the quotient is bounded by its
product. -/
theorem parametersThatTruncateSpeedAreRefused : Obligations.ParametersThatTruncateSpeedAreRefused := by
  intro s
  constructor
  · intro hlt
    have hbad : ¬ s.params.ok = true := by rw [ok_iff]; omega
    exact step_exec_refused_of_not_ok hbad
  · intro hle steps interval hsteps _
    exact ⟨thousand_steps_le hsteps, max_steps_thousand_lt _, thousand_steps_div_lt hsteps hle interval⟩

/-- Settles O43: the three ranges are exactly `Params.ok`, and every edge and command is a next state under it. -/
theorem illegalParametersAreRefused : Obligations.IllegalParametersAreRefused := by
  intro s
  constructor
  · intro hout
    have hbad : ¬ s.params.ok = true := by rw [ok_iff]; omega
    exact step_exec_refused_of_not_ok hbad
  · intro hspeed htime hstep
    have hok : s.params.ok = true := (ok_iff _).2 ⟨hstep, hspeed, htime⟩
    constructor
    · intro r
      simp [step_of_ok hok]
    · intro i r
      simp [exec_of_ok hok]

end Sys2Proof.Machine
end

section
/-! What an edge does to the parameters, the synchroniser and the event registers, and that it keeps `State.Wf`
(10_state.md R22 to R32). -/

namespace Sys2Proof.Machine

/-! ### A non-reset edge in terms of the command port -/

/-- A non-reset edge before its configuration write: an UPDATE where UPD = 1, else the idle edge
(70_reset_and_hazards.md R200). -/
def pollEdge (s : State) : State := if s.ports.cmdUpd = 1#1 then updateEdge s else idleEdge s

/-- Every command is a poll or an idle edge, followed by a configuration write where WE = 1. -/
theorem afterCommand_decode_cmd20 (s : State) :
    afterCommand (decode s.ports.cmd20) s =
      if s.ports.cmdWe = 1#1 then writeCfg s.ports.cmdWa s.ports.cmdWd (pollEdge s) else pollEdge s := by
  have hbit : ∀ b : Bit, b = 0#1 ∨ b = 1#1 := by decide
  rw [decode_cmd20, decodeFields, pollEdge]
  rcases hbit s.ports.cmdWe with hw | hw
  · rcases hbit s.ports.cmdUpd with hu | hu <;> simp [hu, hw, afterCommand]
  · by_cases h0 : s.ports.cmdWa = 0#2
    · rcases hbit s.ports.cmdUpd with hu | hu <;> simp [hu, hw, h0, afterCommand]
    · by_cases h1 : s.ports.cmdWa = 1#2 <;>
        rcases hbit s.ports.cmdUpd with hu | hu <;> simp [hu, hw, h0, h1, afterCommand]

/-- After a non-reset edge every register but INTERVAL and CTRL is the one the poll or the idle edge left. -/
theorem step_command_frame {s t : State} (h : step s = .next t) (hr : s.ports.rstN = 1#1) :
    ∃ iv c, t = { pollEdge s with interval := iv, ctrl := c }.nextInputs := by
  obtain ⟨-, ⟨h0, -⟩ | ⟨-, rfl⟩⟩ := step_cases h
  · simp [hr] at h0
  · rw [afterCommand_decode_cmd20]
    split
    · obtain ⟨iv, c, hw⟩ := writeCfg_frame s.ports.cmdWa s.ports.cmdWd (pollEdge s)
      exact ⟨iv, c, by rw [hw]⟩
    · exact ⟨(pollEdge s).interval, (pollEdge s).ctrl, rfl⟩

/-! ### The invariant -/

theorem update_keeps_wf {s : State} (h : s.Wf) (smp : Sample) {now : Nat} (hn : now < 2 ^ s.params.timeW) :
    (update smp now s).Wf := by
  have hw := speedWindow_keeps_wf h hn
  rcases update_cases smp now s with ⟨-, e⟩ | ⟨-, -, e⟩ | ⟨-, d, -, e⟩ <;> rw [e]
  · exact clearPulse_keeps_wf (setHist_keeps_wf hw _)
  · exact clearPulse_keeps_wf (setCode_keeps_wf (setHist_keeps_wf hw _) _)
  · exact raisePulse_keeps_wf (stepAccount_keeps_wf (setCode_keeps_wf (setHist_keeps_wf hw _) _)) _

theorem idleEdge_keeps_wf {s : State} (h : s.Wf) : (idleEdge s).Wf :=
  clearPulse_keeps_wf (shiftSync_keeps_wf h _)

theorem updateEdge_keeps_wf {s : State} (h : s.Wf) : (updateEdge s).Wf :=
  update_keeps_wf (shiftSync_keeps_wf h _) _ (nowIn_lt s)

theorem pollEdge_keeps_wf {s : State} (h : s.Wf) : (pollEdge s).Wf := by
  unfold pollEdge
  split
  · exact updateEdge_keeps_wf h
  · exact idleEdge_keeps_wf h

theorem step_keeps_wf {s t : State} (h : s.Wf) (hs : step s = .next t) : t.Wf := by
  obtain ⟨hok, ⟨-, rfl⟩ | ⟨-, rfl⟩⟩ := step_cases hs
  · exact nextInputs_keeps_wf (resetRegs_keeps_ok hok)
  · apply nextInputs_keeps_wf
    rw [afterCommand_decode_cmd20]
    split
    · exact writeCfg_keeps_wf (pollEdge_keeps_wf h) _ _
    · exact pollEdge_keeps_wf h

/-- The reset state of legal parameters is what a reset edge leaves from any state of them. -/
theorem afterReset_wf {p : Params} (h : p.ok = true) (ports : Ports) (pending : List Ports) :
    (State.afterReset p ports pending).Wf :=
  resetRegs_keeps_ok (s := State.afterReset p ports pending) h

/-! ### The parameters and the synchroniser -/

theorem pollEdge_params (s : State) : (pollEdge s).params = s.params := by
  unfold pollEdge
  split
  · exact (update_frame _ _ _).1
  · rfl

theorem pollEdge_sync (s : State) : (pollEdge s).sync = (s.capturedPins :: s.sync).take s.params.syncStages := by
  unfold pollEdge
  split
  · obtain ⟨-, -, -, hsync, -⟩ := update_frame s.sampleIn s.nowIn (s.shiftSync s.capturedPins)
    exact hsync
  · rfl

theorem step_params {s t : State} (h : step s = .next t) : t.params = s.params := by
  obtain ⟨-, ⟨-, rfl⟩ | ⟨hr, -⟩⟩ := step_cases h
  · rfl
  · obtain ⟨iv, c, rfl⟩ := step_command_frame h hr
    exact pollEdge_params s

theorem drive_params {ps : List Ports} {s t : State} (h : drive ps s = .next t) : t.params = s.params :=
  drive_keeps (I := fun u => u.params = s.params) (fun _ _ hu => hu) (fun _ _ hu hs => (step_params hs).trans hu)
    ps s t rfl h

/-- A non-reset edge shifts the captured pins into the first stage (10_state.md R30). -/
theorem step_sync {s t : State} (h : step s = .next t) (hr : s.ports.rstN = 1#1) :
    t.sync = (s.capturedPins :: s.sync).take s.params.syncStages := by
  obtain ⟨iv, c, rfl⟩ := step_command_frame h hr
  exact pollEdge_sync s

/-- Stable levels `{DT, CLK}` of `v` give the sample `v`, whatever the draws are (20_memory.md R61). -/
theorem sampleOf_resolve_stable : ∀ (v : Sample) (d c : Bit),
    sampleOf ((if v.getLsbD 1 then PinLevel.high else .low).resolve d)
      ((if v.getLsbD 0 then PinLevel.high else .low).resolve c) = v := by decide

theorem capturedPins_withPorts {p : Ports} {v : Sample} (h : p.PinsAre v) (s : State) :
    (s.withPorts p).capturedPins = v := by
  obtain ⟨hdt, hclk⟩ := h
  rw [State.capturedPins, State.withPorts_ports, hdt, hclk]
  exact sampleOf_resolve_stable v _ _

/-- Cutting off the stages before more pins enter loses nothing that stays. -/
theorem take_append_take {α : Type} (k : Nat) (xs ys : List α) :
    (xs ++ ys.take k).take k = (xs ++ ys).take k := by
  rw [List.take_append, List.take_append, List.take_take, min_eq_left (Nat.sub_le _ _)]

/-- Over non-reset edges with stable pins, the stages hold the pins of the run, the latest first, and behind them the
stages from before it. -/
theorem drive_sync {ps : List Ports} {vs : List Sample} (hv : List.Forall₂ Ports.PinsAre ps vs) :
    ∀ {s t : State}, s.sync.length = s.params.syncStages → (∀ q ∈ ps, q.rstN = 1#1) → drive ps s = .next t →
      t.sync = (vs.reverse ++ s.sync).take s.params.syncStages := by
  induction hv with
  | nil =>
    intro s t hlen _ hd
    cases hd
    simp [← hlen]
  | @cons p v ps vs hp _ ih =>
    intro s t hlen hr hd
    obtain ⟨u, hu, ht⟩ := drive_cons hd
    have hpar : u.params = (s.withPorts p).params := step_params hu
    have hsync : u.sync = (v :: s.sync).take s.params.syncStages := by
      have h := step_sync hu (hr p (.head _))
      rwa [capturedPins_withPorts hp] at h
    have hulen : u.sync.length = u.params.syncStages := by simp [hsync, hpar, hlen]
    calc t.sync = (vs.reverse ++ u.sync).take u.params.syncStages := ih hulen (fun q hq => hr q (.tail _ hq)) ht
      _ = (vs.reverse ++ v :: s.sync).take s.params.syncStages := by
        rw [hpar, State.withPorts_params, hsync, take_append_take]
      _ = ((v :: vs).reverse ++ s.sync).take s.params.syncStages := by simp

theorem sampleIn_of_no_stage {s : State} (h : s.params.syncStages = 0) : s.sampleIn = s.capturedPins := by
  simp [State.sampleIn, h]

theorem sampleIn_of_stages {s : State} {n : Nat} (h : s.params.syncStages = n + 1) :
    s.sampleIn = s.sync.getD n 0b00#2 := by
  simp [State.sampleIn, h]

/-! ### The event registers -/

/-- The step that `decode` detects depends on HIST, CODE and the parameters alone. -/
theorem decodeSample_fst (smp : Sample) (s : State) :
    (decodeSample smp s).1 =
      if lut (shiftHist s.hist smp) = 0#1 then none
      else classify s.params (accumulate s.code (shiftHist s.hist smp)) := by
  rcases decodeSample_cases smp s with ⟨hl, hd⟩ | ⟨hl, hd⟩ <;> simp [hl, hd]

theorem update_of_no_step {smp : Sample} {s : State} (h : (decodeSample smp s).1 = none) (now : Nat) :
    (update smp now s).evValid = 0#1 ∧ (update smp now s).evDir = s.evDir ∧
      (update smp now s).evSpeed = s.evSpeed := by
  obtain ⟨v, n, t, hw⟩ := speedWindow_frame now s
  rw [decodeSample_fst] at h
  rcases update_cases smp now s with ⟨-, e⟩ | ⟨-, -, e⟩ | ⟨hl, d, hd, -⟩
  · simp [e, hw]
  · simp [e, hw]
  · simp [hl, hd] at h

theorem update_of_step {smp : Sample} {s : State} {d : Direction} (h : (decodeSample smp s).1 = some d) (now : Nat) :
    (update smp now s).evValid = 1#1 ∧ (update smp now s).evDir = d.bit ∧
      (update smp now s).evSpeed = (update smp now s).speed := by
  rw [decodeSample_fst] at h
  rcases update_cases smp now s with ⟨hl, -⟩ | ⟨hl, hd, -⟩ | ⟨hl, d', hd, e⟩
  · simp [hl] at h
  · simp [hl, hd] at h
  · obtain rfl : d' = d := by simpa [hl, hd] using h
    simp [e]

/-- The step detected by the command on the port: none where it does not poll. -/
def State.detectedStep (s : State) : Option Direction :=
  if s.ports.cmdUpd = 1#1 then (decodeSample s.sampleIn s).1 else none

theorem detectedStep_eq_some_iff (s : State) (d : Direction) :
    s.detectedStep = some d ↔ s.ports.cmdUpd = 1#1 ∧ (decodeSample s.sampleIn s).1 = some d := by
  simp [State.detectedStep]

/-- The synchroniser shift of the edge does not change which step is detected. -/
theorem decodeSample_shiftSync_fst (smp pins : Sample) (s : State) :
    (decodeSample smp (s.shiftSync pins)).1 = (decodeSample smp s).1 := by
  rw [decodeSample_fst, decodeSample_fst]
  rfl

theorem pollEdge_of_no_step {s : State} (h : s.detectedStep = none) :
    (pollEdge s).evValid = 0#1 ∧ (pollEdge s).evDir = s.evDir ∧ (pollEdge s).evSpeed = s.evSpeed := by
  unfold pollEdge
  split
  next hu =>
    rw [State.detectedStep, if_pos hu] at h
    exact update_of_no_step ((decodeSample_shiftSync_fst _ _ s).trans h) s.nowIn
  next => exact ⟨rfl, rfl, rfl⟩

theorem pollEdge_of_step {s : State} {d : Direction} (h : s.detectedStep = some d) :
    (pollEdge s).evValid = 1#1 ∧ (pollEdge s).evDir = d.bit ∧ (pollEdge s).evSpeed = (pollEdge s).speed := by
  obtain ⟨hu, hd⟩ := (detectedStep_eq_some_iff s d).1 h
  rw [pollEdge, if_pos hu]
  exact update_of_step ((decodeSample_shiftSync_fst _ _ s).trans hd) s.nowIn

/-! ### The obligations -/

/-- Settles O14: each operation of an edge keeps the invariant, and a reset edge makes it. -/
theorem everyEdgeKeepsTheInvariant : Obligations.EveryEdgeKeepsTheInvariant := fun _ _ => step_keeps_wf

/-- Settles O13: the reset state is what a reset edge leaves, and the default parameters are legal. -/
theorem resetStateMeetsTheInvariant : Obligations.ResetStateMeetsTheInvariant :=
  ⟨afterReset_wf (by decide) _ _, fun _ ports pending hok => afterReset_wf hok ports pending⟩

/-- Settles O9: the signatures are functions of the parameters, which a run keeps. -/
theorem noRunChangesTheInstance : Obligations.NoRunChangesTheInstance := by
  intro ps s t hd
  have hpar := drive_params hd
  exact ⟨hpar, congrArg cwSig hpar, congrArg ccwSig hpar⟩

/-- Settles O27, by whether the edge is a reset edge, polls without a step, or detects one. -/
theorem eventRegistersHoldBetweenSteps : Obligations.EventRegistersHoldBetweenSteps := by
  intro s t h
  obtain ⟨-, ⟨hr, rfl⟩ | ⟨hr, -⟩⟩ := step_cases h
  · simp [hr]
  · obtain ⟨iv, c, rfl⟩ := step_command_frame h hr
    cases hstep : s.detectedStep with
    | none =>
      obtain ⟨hvalid, hdir, hspeed⟩ := pollEdge_of_no_step hstep
      have hnone : s.ports.cmdUpd = 1#1 → (decodeSample s.sampleIn s).1 = none := by
        simpa [State.detectedStep] using hstep
      simpa [hvalid, hdir, hspeed] using fun _ => hnone
    | some d =>
      obtain ⟨hvalid, hdir, hspeed⟩ := pollEdge_of_step hstep
      obtain ⟨hu, hd⟩ := (detectedStep_eq_some_iff s d).1 hstep
      simp [hr, hu, hd, hvalid, hdir, hspeed]

/-- Settles O33: the last stage is the pins of SYNC_STAGES edges before, or what the stages held before the run. -/
theorem synchroniserDelaysPinsByItsStages : Obligations.SynchroniserDelaysPinsByItsStages := by
  intro s t ps vs p v hwf hr hpins hp hd
  obtain ⟨-, -, -, -, -, hlen, -, -⟩ := hwf
  have hsync := drive_sync hpins hlen hr hd
  have hpar := drive_params hd
  have hvs : ps.length = vs.length := hpins.length_eq
  cases hk : s.params.syncStages with
  | zero =>
    have hsample : (t.withPorts p).sampleIn = v := by
      rw [sampleIn_of_no_stage (by simp [hpar, hk]), capturedPins_withPorts hp]
    simp [hsample, hvs]
  | succ n =>
    have hsample : (t.withPorts p).sampleIn = (vs.reverse ++ s.sync).getD n 0b00#2 := by
      rw [sampleIn_of_stages (n := n) (by simp [hpar, hk])]
      simp [hsync, hk, List.getD_eq_getElem?_getD]
    rw [hsample, hvs]
    constructor
    · intro hle
      have hidx : vs.length - (n + 1) < vs.length := by omega
      have hn : n < vs.reverse.length := by simpa using hle
      rw [List.getElem?_append_left hidx, List.getD_append _ _ _ _ hn, List.getD_eq_getElem _ _ hn,
        List.getElem_reverse, List.getElem?_eq_getElem hidx]
      congr 2
      omega
    · intro hlt hzero
      rw [List.getD_append_right _ _ _ _ (by simpa using Nat.le_of_lt_succ hlt)]
      have hget : n - vs.reverse.length < s.sync.length := by omega
      rw [List.getD_eq_getElem _ _ hget]
      exact hzero _ (List.getElem_mem hget)

end Sys2Proof.Machine
end

section
/-! The configuration space read back (20_memory.md R50 to R56), and an encoder pin that changes inside its capture
window (R61). -/

namespace Sys2Proof.Machine

/-! ### The configuration space -/

theorem memRead_setInterval (s : State) (v : CfgWord) (b : CfgAddr) :
    memRead (s.setInterval v) b = if b = 0#2 then v else memRead s b := by
  by_cases hb : b = 0#2 <;> simp [memRead, State.pullup, hb]

theorem memRead_setPullup (s : State) (v : CfgWord) (b : CfgAddr) :
    memRead (s.setPullup (v.extractLsb' 0 1)) b = if b = 1#2 then v &&& 1#16 else memRead s b := by
  by_cases hb : b = 1#2
  · simp [memRead, hb, bit0_setWidth]
  · simp [memRead, hb]

/-- An address that is neither INTERVAL nor CTRL is reserved (20_memory.md R51). -/
theorem reserved_of_ne : ∀ {a : CfgAddr}, a ≠ 0#2 → a ≠ 1#2 → CfgAddr.reserved a = true := by decide

theorem memRead_writeCfg (a b : CfgAddr) (v : CfgWord) (s : State) :
    memRead (writeCfg a v s) b =
      if b ≠ a ∨ (a = 0#2 ∧ v = 0#16) then memRead s b
      else if a = 0#2 then v
      else if a = 1#2 then v &&& 1#16
      else 0#16 := by
  rcases writeCfg_cases a v s with ⟨rfl, hv, hw⟩ | ⟨rfl, hw⟩ | ⟨h1, hv, hw⟩ <;> rw [hw]
  · simp [memRead_setInterval, hv]
  · simp [memRead_setPullup]
  · by_cases hb : b = a
    · subst hb
      by_cases h0 : b = 0#2
      · simp [h0, hv h0]
      · simp [h0, h1, memRead_reserved (reserved_of_ne h0 h1)]
    · simp [hb]

/-- The second write meets the case the first one met. -/
theorem writeCfg_writeCfg (a : CfgAddr) (v : CfgWord) (s : State) :
    writeCfg a v (writeCfg a v s) = writeCfg a v s := by
  rcases writeCfg_cases a v s with ⟨rfl, hv, hw⟩ | ⟨rfl, hw⟩ | ⟨-, -, hw⟩
  · rw [hw, writeCfg_interval hv]; rfl
  · rw [hw, writeCfg_ctrl, setPullup_setPullup]
  · rw [hw, hw]

/-! ### What a command reads of the ports

`exec i` takes its command from `i`, so of the ports it reads the pins, by what they give the capture, and the time. -/

theorem speedWindow_withPorts (now : Nat) (s : State) (p : Ports) :
    speedWindow now (s.withPorts p) = (speedWindow now s).withPorts p := by
  rcases speedWindow_cases now s with ⟨hle, hw⟩ | ⟨hlt, hw⟩ <;> rw [hw]
  · exact if_pos hle
  · exact if_neg (Nat.not_le.2 hlt)

theorem decodeSample_withPorts (smp : Sample) (s : State) (p : Ports) :
    decodeSample smp (s.withPorts p) = ((decodeSample smp s).1, (decodeSample smp s).2.withPorts p) := by
  rcases decodeSample_cases smp s with ⟨hl, hd⟩ | ⟨hl, hd⟩ <;> rw [hd]
  · exact if_pos hl
  · exact if_neg (hl ▸ by decide)

theorem update_withPorts (smp : Sample) (now : Nat) (s : State) (p : Ports) :
    update smp now (s.withPorts p) = (update smp now s).withPorts p := by
  unfold update
  rw [speedWindow_withPorts, decodeSample_withPorts]
  rcases decodeSample smp (speedWindow now s) with ⟨_ | d, s1⟩ <;> rfl

theorem writeCfg_withPorts (a : CfgAddr) (v : CfgWord) (s : State) (p : Ports) :
    writeCfg a v (s.withPorts p) = (writeCfg a v s).withPorts p := by
  rcases writeCfg_cases a v s with ⟨rfl, hv, hw⟩ | ⟨rfl, hw⟩ | ⟨h1, hv, hw⟩ <;> rw [hw]
  · exact writeCfg_interval hv _
  · exact writeCfg_ctrl v _
  · by_cases h0 : a = 0#2
    · rw [h0, hv h0, writeCfg_interval_zero]
    · exact writeCfg_reserved (reserved_of_ne h0 h1) v _

theorem idleEdge_withPorts {s : State} {p : Ports} (hpins : (s.withPorts p).capturedPins = s.capturedPins) :
    idleEdge (s.withPorts p) = (idleEdge s).withPorts p := by
  rw [idleEdge, hpins]
  rfl

theorem sampleIn_withPorts {s : State} {p : Ports} (hpins : (s.withPorts p).capturedPins = s.capturedPins) :
    (s.withPorts p).sampleIn = s.sampleIn := by
  cases hk : s.params.syncStages with
  | zero => rw [sampleIn_of_no_stage (s := s.withPorts p) hk, sampleIn_of_no_stage hk, hpins]
  | succ n => rw [sampleIn_of_stages (s := s.withPorts p) hk, sampleIn_of_stages hk, State.withPorts_sync]

theorem shiftSync_withPorts (s : State) (pins : Sample) (p : Ports) :
    (s.withPorts p).shiftSync pins = (s.shiftSync pins).withPorts p := rfl

theorem updateEdge_withPorts {s : State} {p : Ports} (hpins : (s.withPorts p).capturedPins = s.capturedPins)
    (hnow : p.nowMs = s.ports.nowMs) : updateEdge (s.withPorts p) = (updateEdge s).withPorts p := by
  have htime : (s.withPorts p).nowIn = s.nowIn := congrArg (trunc s.params.timeW) hnow
  rw [updateEdge, hpins, sampleIn_withPorts hpins, htime, shiftSync_withPorts, update_withPorts]
  rfl

/-- Ports with the same captured pins and the same time give every command the same state but for the ports. -/
theorem afterCommand_withPorts {s : State} {p : Ports} (hpins : (s.withPorts p).capturedPins = s.capturedPins)
    (hnow : p.nowMs = s.ports.nowMs) (i : Instr) :
    afterCommand i (s.withPorts p) = (afterCommand i s).withPorts p := by
  have hidle := idleEdge_withPorts hpins
  have hupdate := updateEdge_withPorts hpins hnow
  cases i <;> simp only [afterCommand, hidle, hupdate, writeCfg_withPorts]

/-- With ports `p` instead of its own a state captures the same pins at the same time, so each of the two answers is
the other with its ports put back. -/
theorem exec_withPorts {s : State} {p : Ports} (hok : s.params.ok = true)
    (hpins : (s.withPorts p).capturedPins = s.capturedPins) (hnow : p.nowMs = s.ports.nowMs) (i : Instr) :
    ∃ t, exec i (s.withPorts p) = .next t ∧ exec i s = .next (t.withPorts s.ports) := by
  have hback : afterCommand i s = (afterCommand i (s.withPorts p)).withPorts s.ports :=
    afterCommand_withPorts (s := s.withPorts p) (p := s.ports) hpins.symm hnow.symm i
  exact ⟨_, exec_of_ok (s := s.withPorts p) hok i, hback ▸ exec_of_ok hok i⟩

theorem resolve_changing (draw : Bit) : PinLevel.changing.resolve draw = draw := rfl

/-- Either bit is what a stable level gives the capture, whatever the draw is. -/
theorem exists_stable_level : ∀ b : Bit, ∃ l : PinLevel, (l = .low ∨ l = .high) ∧ ∀ draw, l.resolve draw = b := by
  intro b
  rcases (by decide : ∀ b : Bit, b = 0#1 ∨ b = 1#1) b with rfl | rfl
  · exact ⟨.low, .inl rfl, fun _ => rfl⟩
  · exact ⟨.high, .inr rfl, fun _ => rfl⟩

/-! ### The obligations -/

/-- Settles O20, by the three things a configuration write can do. -/
theorem configurationReadsBackWhatWasWritten : Obligations.ConfigurationReadsBackWhatWasWritten := by
  intro a b v s
  refine ⟨memRead_writeCfg a b v s, ?_, writeCfg_writeCfg a v s⟩
  rintro (rfl | rfl) <;> exact memRead_reserved (by decide) s

/-- Settles O34: the level that stands for the changing pin is the one its draw gives at this edge. -/
theorem changingPinActsAsOneOfTheTwoLevels : Obligations.ChangingPinActsAsOneOfTheTwoLevels := by
  intro i s hok
  constructor
  · intro hclk
    obtain ⟨l, hl, hres⟩ := exists_stable_level (Config.captureClk s.draws)
    have hpins : (s.withPorts { s.ports with pinClk := l }).capturedPins = s.capturedPins := by
      simp [State.capturedPins, hclk, resolve_changing, hres]
    obtain ⟨t, ht⟩ := exec_withPorts hok hpins rfl i
    exact ⟨l, t, hl, ht⟩
  · intro hdt
    obtain ⟨l, hl, hres⟩ := exists_stable_level (Config.captureDt s.draws)
    have hpins : (s.withPorts { s.ports with pinDt := l }).capturedPins = s.capturedPins := by
      simp [State.capturedPins, hdt, resolve_changing, hres]
    obtain ⟨t, ht⟩ := exec_withPorts hok hpins rfl i
    exact ⟨l, t, hl, ht⟩

end Sys2Proof.Machine
end

section
/-! The command word is its four fields side by side, so encoding, decoding and the opcode map are settled on the
fields (30_encoding.md R77 to R84). -/

namespace Sys2Proof

open Sys2Proof.Machine
open Sys2Proof.Laws.EncodeSelectsOwnRow (ofFields_and)

/-! ### The fields of a command word -/

/-- Any four fields can stand on the command port, and the decoder of the port reads them back. -/
theorem decode_ofFields (u w : Bit) (a : CfgAddr) (d : CfgWord) :
    decode (Cmd20.ofFields u w a d) = decodeFields u w a d :=
  decode_cmd20 { Ports.quiet with cmdUpd := u, cmdWe := w, cmdWa := a, cmdWd := d }

/-- The four fields cover the word without a gap. -/
theorem ofFields_fields (w : Cmd20) : Cmd20.ofFields w.upd w.we w.wa w.wd = w := by
  simp only [Cmd20.ofFields, Cmd20.upd, Cmd20.we, Cmd20.wa, Cmd20.wd]
  rw [BitVec.extractLsb'_append_extractLsb'_eq_extractLsb' (by rfl),
    BitVec.extractLsb'_append_extractLsb'_eq_extractLsb' (by rfl),
    BitVec.extractLsb'_append_extractLsb'_eq_extractLsb' (by rfl)]
  exact BitVec.extractLsb'_eq_self

/-- Bit 18 of the word is WE (30_encoding.md R77). -/
theorem we_eq_one_iff_getLsbD (w : Cmd20) : w.we = 1#1 ↔ w.getLsbD 18 = true := by
  have hbit : ∀ b : Bit, b = 1#1 ↔ b.getLsbD 0 = true := by decide
  rw [hbit, Cmd20.we, BitVec.getLsbD_extractLsb']
  simp

/-! ### Encoder and decoder -/

/-- The address of a reserved write selects neither INTERVAL nor CTRL. -/
theorem ne_of_reserved : ∀ {a : CfgAddr}, CfgAddr.reserved a = true → a ≠ 0#2 ∧ a ≠ 1#2 := by decide

theorem decode_encode {i : Instr} (h : i.wf = true) : decode (encode i) = i := by
  cases i with
  | nop | update | wrInterval wd | wrCtrl wd | updateWrInterval wd | updateWrCtrl wd =>
    simp [encode, decode_ofFields, decodeFields]
  | wrRsvd wa wd | updateWrRsvd wa wd =>
    obtain ⟨h0, h1⟩ := ne_of_reserved h
    simp [encode, decode_ofFields, decodeFields, h0, h1]

/-- Only an address that is neither INTERVAL's nor CTRL's is decoded to a reserved write. -/
theorem decodeFields_wf (u w : Bit) (a : CfgAddr) (d : CfgWord) : (decodeFields u w a d).wf = true := by
  unfold decodeFields
  split_ifs with hu hw h0 h1 hw h0 h1
  any_goals rfl
  all_goals exact reserved_of_ne h0 h1

/-- Where WE = 1 every field is an operand or fixed; where WE = 0, UPD alone is. -/
theorem encode_decodeFields (u w : Bit) (a : CfgAddr) (d : CfgWord) :
    encode (decodeFields u w a d) =
      if w = 1#1 then Cmd20.ofFields u w a d else Cmd20.ofFields u 0#1 0#2 0#16 := by
  have hbit : ∀ b : Bit, b = 0#1 ∨ b = 1#1 := by decide
  rcases hbit w with rfl | rfl
  · rcases hbit u with rfl | rfl <;> rfl
  · by_cases h0 : a = 0#2
    · rcases hbit u with rfl | rfl <;> simp [decodeFields, encode, h0]
    · by_cases h1 : a = 1#2 <;> rcases hbit u with rfl | rfl <;> simp [decodeFields, encode, h0, h1]

/-- The mask of bit 19 keeps UPD alone. -/
theorem ofFields_and_upd (u w : Bit) (a : CfgAddr) (d : CfgWord) :
    Cmd20.ofFields u w a d &&& 0x80000#20 = Cmd20.ofFields u 0#1 0#2 0#16 := by
  have h := ofFields_and u w 1#1 0#1 a 0#2 d 0#16
  have hu : u &&& 1#1 = u := BitVec.and_allOnes
  rwa [BitVec.and_zero, BitVec.and_zero, BitVec.and_zero, hu] at h

/-! ### The opcode map -/

/-- No row fixes a bit of WD, so WD does not matter for the row. -/
theorem selects_ofFields {r : OpRow} (h : r.mask.wd = 0#16) (u w : Bit) (a : CfgAddr) (d : CfgWord) :
    r.selects (Cmd20.ofFields u w a d) = r.selects (Cmd20.ofFields u w a 0#16) := by
  simp only [OpRow.selects]
  rw [← ofFields_fields r.mask, ofFields_and, ofFields_and, h, BitVec.and_zero, BitVec.and_zero]

theorem opcodeMap_mask_wd : ∀ r ∈ opcodeMap, r.mask.wd = 0#16 := by decide

theorem decodeFields_mnemonic (u w : Bit) (a : CfgAddr) (d : CfgWord) :
    (decodeFields u w a d).mnemonic = (decodeFields u w a 0#16).mnemonic := by
  unfold decodeFields
  split_ifs <;> rfl

/-- The rows tile the sixteen values of UPD, WE and WA. -/
theorem opcodeMap_filter_upd_we_wa : ∀ (u w : Bit) (a : CfgAddr),
    (opcodeMap.filter fun r => r.selects (Cmd20.ofFields u w a 0#16)).map (fun r => r.mnemonic) =
      [(decodeFields u w a 0#16).mnemonic] := by decide

/-! ### The obligations -/

/-- Settles O1: each word computes. -/
theorem wordsOfTheOpcodeMapDecode : Obligations.WordsOfTheOpcodeMapDecode := by
  unfold Obligations.WordsOfTheOpcodeMapDecode
  decide

/-- Settles O2: the decoder reads the fields the encoder has written, and the command is chosen by them. -/
theorem decodeOfEncodeIsTheCommand : Obligations.DecodeOfEncodeIsTheCommand := fun _ => decode_encode

/-- Settles O3, by the fields of the word. -/
theorem encodeOfDecodeClearsDontCareBits : Obligations.EncodeOfDecodeClearsDontCareBits := by
  intro w
  have hmask := ofFields_and_upd w.upd w.we w.wa w.wd
  rw [ofFields_fields] at hmask
  refine ⟨decodeFields_wf _ _ _ _, ?_⟩
  rw [decode, encode_decodeFields, ofFields_fields, hmask]
  exact if_congr (we_eq_one_iff_getLsbD w) rfl rfl

/-- Settles O4: with WD out of the way, sixteen words are left. -/
theorem everyWordSelectsExactlyOneRow : Obligations.EveryWordSelectsExactlyOneRow := by
  intro w
  have hrows : opcodeMap.filter (fun r => r.selects w) =
      opcodeMap.filter (fun r => r.selects (Cmd20.ofFields w.upd w.we w.wa 0#16)) := by
    apply List.filter_congr
    intro r hr
    rw [← selects_ofFields (opcodeMap_mask_wd r hr) _ _ _ w.wd, ofFields_fields]
  rw [hrows, opcodeMap_filter_upd_we_wa, ← decodeFields_mnemonic _ _ _ w.wd, ← decode_ofFields, ofFields_fields]

end Sys2Proof
end

section
/-! The edge step on the command port, and the first line of a loaded program (30_encoding.md R82, R84). -/

namespace Sys2Proof.Machine

/-! ### The ports over a command -/

/-- No command writes what the environment drives. -/
theorem afterCommand_environment (i : Instr) (s : State) :
    (afterCommand i s).ports = s.ports ∧ (afterCommand i s).pending = s.pending := by
  have hupd : (updateEdge s).ports = s.ports ∧ (updateEdge s).pending = s.pending := by
    obtain ⟨-, -, -, -, hports, hpending, -⟩ := update_frame s.sampleIn s.nowIn (s.shiftSync s.capturedPins)
    exact ⟨hports, hpending⟩
  have hwrite : ∀ (a : CfgAddr) (v : CfgWord) (u : State),
      (writeCfg a v u).ports = u.ports ∧ (writeCfg a v u).pending = u.pending := by
    intro a v u
    obtain ⟨iv, c, h⟩ := writeCfg_frame a v u
    rw [h]
    exact ⟨rfl, rfl⟩
  cases i with
  | nop => exact ⟨rfl, rfl⟩
  | update => exact hupd
  | wrInterval wd | wrCtrl wd | wrRsvd wa wd => exact hwrite _ _ (idleEdge s)
  | updateWrInterval wd | updateWrCtrl wd | updateWrRsvd wa wd =>
    simpa only [afterCommand, hwrite] using hupd

/-- With reset released an edge is the command on the port, and then the environment's next port values. -/
theorem step_of_exec_next {s t : State} (hr : s.ports.rstN = 1#1) (h : exec (decode s.ports.cmd20) s = .next t) :
    step s = .next { t with ports := s.pending.headD s.ports, pending := s.pending.tail } := by
  obtain ⟨hok, rfl⟩ := exec_next h
  obtain ⟨hports, hpending⟩ := afterCommand_environment (decode s.ports.cmd20) s
  rw [step_of_ok hok, afterEdge, hr, if_neg (by decide), State.nextInputs, hports, hpending]

/-- A refusal depends on the parameters alone, and is the same for the edge. -/
theorem step_of_exec_refused {s : State} {i : Instr} {r : Refusal} (h : exec i s = .refused r) :
    step s = .refused r := by
  by_cases hok : s.params.ok = true
  · simp [exec_of_ok hok] at h
  · obtain ⟨hstep, hexec⟩ := step_exec_refused_of_not_ok hok
    rw [hstep, ← hexec i, h]

/-! ### A program line on the ports -/

/-- The word driven on the command port is the word read from it (30_encoding.md R77). -/
theorem cmd20_withCmd20 (p : Ports) (w : Cmd20) : (p.withCmd20 w).cmd20 = w := ofFields_fields w

theorem ofBit_extractLsb' : ∀ v : Sample,
    PinLevel.ofBit (v.extractLsb' 1 1) = (if v.getLsbD 1 then .high else .low) ∧
      PinLevel.ofBit (v.extractLsb' 0 1) = (if v.getLsbD 0 then .high else .low) := by decide

/-- A line's command does not touch the stimulus. -/
theorem asmLine_ports_stimulus (prev : Ports) (l : AsmLine) :
    (l.ports prev).nowMs = (prev.stimulate l.stim).nowMs ∧ (l.ports prev).pinDt = (prev.stimulate l.stim).pinDt ∧
      (l.ports prev).pinClk = (prev.stimulate l.stim).pinClk := by
  obtain ⟨c | _, st⟩ := l <;> exact ⟨rfl, rfl, rfl⟩

theorem stimulate_pinsAre (p : Ports) {st : Stimulus} {v : Sample} (h : st.pins = some v) :
    (p.stimulate st).PinsAre v := by
  obtain ⟨hdt, hclk⟩ := ofBit_extractLsb' v
  constructor <;> simp only [Ports.stimulate, h, hdt, hclk]

theorem stimulate_pins_none (p : Ports) {st : Stimulus} (h : st.pins = none) :
    (p.stimulate st).pinDt = p.pinDt ∧ (p.stimulate st).pinClk = p.pinClk := by
  simp [Ports.stimulate, h]

/-- A command line's edge decodes to its command, with reset released. -/
theorem asmLine_ports_command (prev : Ports) {l : AsmLine} {i : Instr} (h : l.cmd = .command i) (hwf : i.wf = true) :
    (l.ports prev).rstN = 1#1 ∧ decode (l.ports prev).cmd20 = i := by
  rw [AsmLine.ports, h]
  refine ⟨rfl, ?_⟩
  calc decode ((prev.stimulate l.stim).withCmd20 (encode i)).cmd20 = decode (encode i) := by rw [cmd20_withCmd20]
    _ = i := decode_encode hwf

theorem asmLine_ports_rst (prev : Ports) {l : AsmLine} (h : l.cmd = .rst) : (l.ports prev).rstN = 0#1 := by
  rw [AsmLine.ports, h]
  rfl

/-- A reset edge of legal parameters leaves the reset state, with the environment's next port values. -/
theorem step_of_reset {s : State} (hok : s.params.ok = true) (hr : s.ports.rstN = 0#1) :
    step s = .next { State.afterReset s.params (s.pending.headD s.ports) s.pending.tail with draws := s.draws } := by
  rw [step_of_ok hok, afterEdge, if_pos hr, resetRegs_eq_afterReset]
  rfl

/-! ### The obligations -/

/-- Settles O5: `exec` leaves the ports alone, and a refusal is one of the parameters. -/
theorem stepRunsTheCommandOnThePort : Obligations.StepRunsTheCommandOnThePort :=
  fun _ hr => ⟨fun _ => step_of_exec_next hr, fun _ => step_of_exec_refused⟩

/-- Settles O42: loading puts the first line's ports on the coming edge, and their command word is the encoding of the
line's command. -/
theorem loadedLineRunsItsCommand : Obligations.LoadedLineRunsItsCommand := by
  intro s prev l ls hok s'
  obtain ⟨htime, hdt, hclk⟩ := asmLine_ports_stimulus prev l
  refine ⟨htime, ?_, ?_, ?_, ?_⟩
  · intro v hv
    obtain ⟨hd, hc⟩ := stimulate_pinsAre prev hv
    exact ⟨hdt.trans hd, hclk.trans hc⟩
  · intro hnone
    obtain ⟨hd, hc⟩ := stimulate_pins_none prev hnone
    exact ⟨hdt.trans hd, hclk.trans hc⟩
  · intro i hi hwf
    obtain ⟨hr, hdec⟩ := asmLine_ports_command prev hi hwf
    have hdecs : decode s'.ports.cmd20 = i := hdec
    have hexec : exec i s' = .next (afterCommand i s') := exec_of_ok (s := s') hok i
    exact ⟨_, hexec, step_of_exec_next (s := s') hr (hdecs.symm ▸ hexec)⟩
  · intro hi
    exact step_of_reset (s := s') hok (asmLine_ports_rst prev hi)

end Sys2Proof.Machine
end

section
/-! UPDATE with a step, as the spec's arithmetic (41_decoder.md R120, 42_speed.md R140 to R147). -/

namespace Sys2Proof.Machine

/-! ### Sample and classifier -/

/-- SYNC behind the captured pins, read at SYNC_STAGES, is the sample of an UPDATE (10_state.md R30). -/
theorem sampleIn_eq_of_getElem? {s : State} {v : Sample}
    (h : (s.capturedPins :: s.sync)[s.params.syncStages]? = some v) : s.sampleIn = v := by
  cases hk : s.params.syncStages with
  | zero => simpa [hk, sampleIn_of_no_stage hk] using h
  | succ n =>
    rw [hk, List.getElem?_cons_succ] at h
    rw [sampleIn_of_stages hk, List.getD_eq_getElem?_getD, h, Option.getD_some]

/-- The valid set of 40_validator.md R102. -/
theorem lut_eq_one_iff_mem : ∀ h : Nibble, lut h = 1#1 ↔ h ∈ [1#4, 2#4, 4#4, 7#4, 8#4, 11#4, 13#4, 14#4] := by decide

/-- With either polarity the two signatures are 0x17 and 0x2B, and the clockwise one is told by the polarity
(30_encoding.md R75). -/
theorem classify_signature (p : Params) {c : CodeByte} (h : c = 0x17#8 ∨ c = 0x2B#8) :
    ∃ d, classify p c = some d ∧ d.bit = if c = (if p.dtHighOnCw then 0x2B#8 else 0x17#8) then 0#1 else 1#1 := by
  by_cases hcw : c = cwSig p
  · exact ⟨.cw, (classify_eq_cw_iff p c).2 hcw, (if_pos hcw).symm⟩
  · have hccw : c = ccwSig p := by
      unfold cwSig at hcw
      unfold ccwSig
      split <;> simp_all
    exact ⟨.ccw, (classify_eq_ccw_iff p c).2 hccw, (if_neg hcw).symm⟩

/-- UPDATE where the valid transition completes a signature: the third outcome of `update_cases`. -/
theorem update_eq_of_step {smp : Sample} {s : State} {d : Direction} (hlut : lut (shiftHist s.hist smp) = 1#1)
    (hsig : classify s.params (accumulate s.code (shiftHist s.hist smp)) = some d) (now : Nat) :
    update smp now s = (stepAccount (((speedWindow now s).setHist (shiftHist s.hist smp)).setCode
      (accumulate s.code (shiftHist s.hist smp)))).raisePulse d.bit := by
  rcases update_cases smp now s with ⟨hl, -⟩ | ⟨-, hnone, -⟩ | ⟨-, d', hd, h⟩
  · simp [hlut] at hl
  · simp [hsig] at hnone
  · obtain rfl : d' = d := by simpa [hsig] using hd.symm
    exact h

/-! ### The boundary check -/

/-- With LAST_T inside its width the wrap-around difference is the one of 42_speed.md R140. -/
theorem elapsed_nowIn {s : State} (h : s.lastT < 2 ^ s.params.timeW) : elapsed s.nowIn s = s.elapsedIn := by
  rw [elapsed, wrapSub, Nat.mod_eq_of_lt h, State.elapsedIn, ← Nat.add_sub_assoc h.le]
  rfl

/-- In a state of the invariant no quotient is cut and none is by 0, so the boundary check is the arithmetic of
42_speed.md R140. -/
theorem speedWindow_of_wf {s : State} (h : s.Wf) :
    speedWindow s.nowIn s =
      { s with speed := if s.AtBoundary then s.steps * 1000 / s.interval.toNat else s.speed
               steps := if s.AtBoundary then 0 else s.steps
               lastT := if s.AtBoundary then s.ports.nowMs % 2 ^ s.params.timeW else s.lastT } := by
  obtain ⟨hok, hsteps, hlast, -, -, -, hinterval, -⟩ := h
  obtain ⟨-, hwidth, -⟩ := (ok_iff _).1 hok
  have hpos : s.interval.toNat ≠ 0 := fun h0 => hinterval (BitVec.eq_of_toNat_eq h0)
  have hquot : trunc s.params.speedW (speedQuotient s.steps s.interval.toNat) =
      s.steps * 1000 / s.interval.toNat := by
    rw [speedQuotient_of_pos _ hpos, trunc_eq_self (thousand_steps_div_lt hsteps hwidth _)]
  rw [speedWindow, elapsed_nowIn hlast, hquot]
  by_cases hb : s.AtBoundary
  · rw [if_pos hb, if_pos hb, if_pos hb, if_pos hb]
    rfl
  · rw [if_neg hb, if_neg hb, if_neg hb, if_neg hb]

/-! ### The obligation -/

/-- Settles O23: the step is accounted on the state the boundary check leaves. -/
theorem updateWithAStep : Obligations.UpdateWithAStep := by
  intro s sample hwf hsample h c speed hvalid hsig
  have hok : s.params.ok = true := hwf.1
  obtain ⟨d, hclass, hdir⟩ := classify_signature s.params hsig
  have hhist : shiftHist s.hist sample = h := shiftHist_eq_append s.hist sample
  have hcode : accumulate s.code h = c := accumulate_eq_append s.code h
  have hwindow : speedWindow s.nowIn (s.shiftSync s.capturedPins) = _ :=
    speedWindow_of_wf (shiftSync_keeps_wf hwf s.capturedPins)
  have hupdate := update_eq_of_step (s := s.shiftSync s.capturedPins) (smp := sample) (d := d)
    (by rw [State.shiftSync_hist, hhist]; exact (lut_eq_one_iff_mem h).2 hvalid)
    (by rw [State.shiftSync_hist, State.shiftSync_code, hhist, hcode]; exact hclass) s.nowIn
  rw [State.shiftSync_hist, State.shiftSync_code, hhist, hcode, hdir] at hupdate
  rw [exec_of_ok hok, afterCommand, updateEdge, sampleIn_eq_of_getElem? hsample, hupdate, hwindow]
  rfl

end Sys2Proof.Machine
end

section
/-! The validity table as the two sets and the closed form of 40_validator.md R102. -/

namespace Sys2Proof.Machine

/-- The invalid set of 40_validator.md R102: no pin or both pins changed. -/
theorem lut_eq_zero_iff_mem : ∀ h : Nibble, lut h = 0#1 ↔ h ∈ [0#4, 3#4, 5#4, 6#4, 9#4, 10#4, 12#4, 15#4] := by decide

/-- Settles O25: each set is the table read off at its 16 indices, and the closed form is `lut_eq_one_iff`. -/
theorem validTransitionsAreTheOnePinChanges : Obligations.ValidTransitionsAreTheOnePinChanges :=
  fun h => ⟨lut_eq_one_iff_mem h, lut_eq_zero_iff_mem h, lut_eq_one_iff h⟩

end Sys2Proof.Machine
end

section
/-! What an edge does to HIST, CODE and the step event, as the rules of 41_decoder.md state it (R110 to R122). -/

namespace Sys2Proof.Machine

/-! ### Signatures and codes -/

/-- With either polarity the signatures are the two bytes of 30_encoding.md R75. -/
theorem classify_eq_none_iff (p : Params) (c : CodeByte) : classify p c = none ↔ c ≠ 0x17#8 ∧ c ≠ 0x2B#8 := by
  constructor
  · intro hnone
    have hno : ¬ (c = 0x17#8 ∨ c = 0x2B#8) := by
      intro hsig
      obtain ⟨d, hd, -⟩ := classify_signature p hsig
      simp [hnone] at hd
    simpa using hno
  · rintro ⟨h17, h2B⟩
    unfold classify cwSig ccwSig
    split_ifs <;> rfl

/-- The newer nibble of a signature is 7 or B, so no other nibble completes one. -/
theorem append_not_signature : ∀ (a n : Nibble), n ≠ 0x7#4 → n ≠ 0xB#4 →
    (a ++ n : CodeByte) ≠ 0x17#8 ∧ (a ++ n : CodeByte) ≠ 0x2B#8 := by decide

/-- Two nibbles fill the code, so nothing older is left (41_decoder.md R121). -/
theorem accumulate_accumulate (c : CodeByte) (a b : Nibble) : accumulate (accumulate c a) b = (a ++ b : CodeByte) := by
  have hlow : ∀ x y : Nibble, (x ++ y : CodeByte).extractLsb' 0 4 = y := by decide
  rw [accumulate_eq_append, accumulate_eq_append, hlow]

theorem accumulate_zero (n : Nibble) : accumulate 0x00#8 n = (0x0#4 ++ n : CodeByte) := accumulate_eq_append _ n

/-! ### UPDATE -/

theorem update_code (smp : Sample) (now : Nat) (s : State) :
    (update smp now s).code =
      if lut (shiftHist s.hist smp) = 1#1 then accumulate s.code (shiftHist s.hist smp) else s.code := by
  obtain ⟨v, n, t, hw⟩ := speedWindow_frame now s
  rcases update_cases smp now s with ⟨hl, h⟩ | ⟨hl, -, h⟩ | ⟨hl, d, -, h⟩ <;> simp [h, hl, stepAccount, hw]

theorem stepAccount_speed (s : State) : (stepAccount s).speed = max 1 s.speed := by
  rw [stepAccount, State.setCount_speed]
  by_cases h : s.speed = 0
  · simp [h]
  · rw [if_neg h]
    omega

/-- A step leaves the SPEED of the boundary check, or 1 where that is 0 (42_speed.md R147). -/
theorem update_speed_of_step {smp : Sample} {s : State} {d : Direction} (h : (decodeSample smp s).1 = some d)
    (now : Nat) : (update smp now s).speed = max 1 (speedWindow now s).speed := by
  rw [decodeSample_fst] at h
  rcases update_cases smp now s with ⟨hl, -⟩ | ⟨hl, hd, -⟩ | ⟨-, d', -, e⟩
  · simp [hl] at h
  · simp [hl, hd] at h
  · rw [e, State.raisePulse_speed, stepAccount_speed, State.setCode_speed, State.setHist_speed]

/-! ### The edge that polls -/

/-- The configuration write of an edge leaves the decoder and the event alone. -/
theorem step_command_decoder {s t : State} (h : step s = .next t) (hr : s.ports.rstN = 1#1) :
    t.hist = (pollEdge s).hist ∧ t.code = (pollEdge s).code ∧ t.evValid = (pollEdge s).evValid ∧
      t.evDir = (pollEdge s).evDir ∧ t.evSpeed = (pollEdge s).evSpeed := by
  obtain ⟨iv, c, rfl⟩ := step_command_frame h hr
  exact ⟨rfl, rfl, rfl, rfl, rfl⟩

/-! An edge that does not poll holds the decoder and clears the pulse. -/

@[simp] theorem idleEdge_hist (s : State) : (idleEdge s).hist = s.hist := rfl
@[simp] theorem idleEdge_code (s : State) : (idleEdge s).code = s.code := rfl
@[simp] theorem idleEdge_evValid (s : State) : (idleEdge s).evValid = 0#1 := rfl

theorem pollEdge_of_poll {s : State} (h : s.ports.cmdUpd = 1#1) : pollEdge s = updateEdge s := if_pos h

theorem pollEdge_of_idle {s : State} (h : s.ports.cmdUpd ≠ 1#1) : pollEdge s = idleEdge s := if_neg h

theorem updateEdge_hist (s : State) : (updateEdge s).hist = (s.hist.extractLsb' 0 2 ++ s.sampleIn : Nibble) := by
  rw [updateEdge, update_hist, shiftHist_eq_append, State.shiftSync_hist]

theorem updateEdge_code (s : State) :
    (updateEdge s).code =
      if lut (updateEdge s).hist = 1#1 then accumulate s.code (updateEdge s).hist else s.code := by
  unfold updateEdge
  rw [update_code, update_hist]
  rfl

/-- The classifier reads the CODE that a valid transition has just written (41_decoder.md R112). -/
theorem decodeSample_sampleIn_fst (s : State) :
    (decodeSample s.sampleIn s).1 =
      if lut (updateEdge s).hist = 1#1 then classify s.params (updateEdge s).code else none := by
  rw [decodeSample_fst, updateEdge_code, updateEdge_hist, ← shiftHist_eq_append]
  by_cases hl : lut (shiftHist s.hist s.sampleIn) = 0#1
  · simp [hl]
  · simp [bit_eq_one_of_ne_zero hl]

theorem updateEdge_of_no_step {s : State} (h : (decodeSample s.sampleIn s).1 = none) : (updateEdge s).evValid = 0#1 :=
  (update_of_no_step ((decodeSample_shiftSync_fst _ _ s).trans h) s.nowIn).1

theorem updateEdge_of_step {s : State} {d : Direction} (h : (decodeSample s.sampleIn s).1 = some d) :
    (updateEdge s).evValid = 1#1 ∧ (updateEdge s).evDir = d.bit ∧
      (updateEdge s).evSpeed = max 1 (speedWindow s.nowIn (s.shiftSync s.capturedPins)).speed := by
  have hd := (decodeSample_shiftSync_fst s.sampleIn s.capturedPins s).trans h
  obtain ⟨hvalid, hdir, hspeed⟩ := update_of_step hd s.nowIn
  exact ⟨hvalid, hdir, hspeed.trans (update_speed_of_step hd s.nowIn)⟩

/-- A pulse is a valid transition and a signature that it wrote (41_decoder.md R112). -/
theorem updateEdge_evValid_iff (s : State) :
    (updateEdge s).evValid = 1#1 ↔
      lut (updateEdge s).hist = 1#1 ∧ ((updateEdge s).code = 0x17#8 ∨ (updateEdge s).code = 0x2B#8) := by
  have hdec := decodeSample_sampleIn_fst s
  by_cases hl : lut (updateEdge s).hist = 1#1
  · rw [if_pos hl] at hdec
    cases hc : classify s.params (updateEdge s).code with
    | none =>
      obtain ⟨h17, h2B⟩ := (classify_eq_none_iff _ _).1 hc
      simp [updateEdge_of_no_step (hdec.trans hc), h17, h2B]
    | some d =>
      have hsig : (updateEdge s).code = 0x17#8 ∨ (updateEdge s).code = 0x2B#8 := by
        by_contra hno
        simp [(classify_eq_none_iff _ _).2 (not_or.1 hno)] at hc
      simp [(updateEdge_of_step (hdec.trans hc)).1, hl, hsig]
  · rw [if_neg hl] at hdec
    simp [updateEdge_of_no_step hdec, hl]

theorem updateEdge_no_pulse_of_code {s : State}
    (h : (updateEdge s).code ≠ 0x17#8 ∧ (updateEdge s).code ≠ 0x2B#8) :
    (updateEdge s).evValid = 0#1 := by
  by_contra hpulse
  obtain ⟨-, hsig⟩ := (updateEdge_evValid_iff s).1 (bit_eq_one_of_ne_zero hpulse)
  exact hsig.elim h.1 h.2

/-- A nibble that ends no signature gives no pulse, valid or not. -/
theorem updateEdge_no_pulse_of_hist {s : State} (h7 : (updateEdge s).hist ≠ 0x7#4) (hB : (updateEdge s).hist ≠ 0xB#4) :
    (updateEdge s).evValid = 0#1 := by
  by_contra hpulse
  obtain ⟨hl, hsig⟩ := (updateEdge_evValid_iff s).1 (bit_eq_one_of_ne_zero hpulse)
  rw [updateEdge_code, if_pos hl, accumulate_eq_append] at hsig
  obtain ⟨h17, h2B⟩ := append_not_signature (s.code.extractLsb' 0 4) _ h7 hB
  exact hsig.elim h17 h2B

/-- From a state of the invariant UPDATE with a step reports the SPEED of its boundary, else the held one, forced to 1
where it is 0 (41_decoder.md R116). -/
theorem updateEdge_evSpeed {s : State} (hwf : s.Wf) (h : (updateEdge s).evValid = 1#1) :
    (updateEdge s).evSpeed = max 1 (if s.AtBoundary then s.steps * 1000 / s.interval.toNat else s.speed) := by
  have hwindow : speedWindow s.nowIn (s.shiftSync s.capturedPins) = _ :=
    speedWindow_of_wf (shiftSync_keeps_wf hwf s.capturedPins)
  cases hstep : (decodeSample s.sampleIn s).1 with
  | none => simp [updateEdge_of_no_step hstep] at h
  | some d =>
    obtain ⟨-, -, hspeed⟩ := updateEdge_of_step hstep
    rw [hspeed, hwindow]
    rfl

/-! ### The obligations -/

/-- Settles O22, by the first two outcomes of UPDATE; the third one is a signature. -/
theorem updateWithoutAStep : Obligations.UpdateWithoutAStep := by
  intro s sample hwf hsample h c hno
  have hok : s.params.ok = true := hwf.1
  have hhist : shiftHist s.hist sample = h := shiftHist_eq_append s.hist sample
  have hcode : accumulate s.code h = c := accumulate_eq_append s.code h
  have hwindow : speedWindow s.nowIn (s.shiftSync s.capturedPins) = _ :=
    speedWindow_of_wf (shiftSync_keeps_wf hwf s.capturedPins)
  have hcases := update_cases sample s.nowIn (s.shiftSync s.capturedPins)
  rw [State.shiftSync_hist, State.shiftSync_code, State.shiftSync_params, hhist, hcode] at hcases
  rw [exec_of_ok hok, afterCommand, updateEdge, sampleIn_eq_of_getElem? hsample]
  rcases hcases with ⟨hl, hupdate⟩ | ⟨hl, -, hupdate⟩ | ⟨hl, d, hd, -⟩
  · rw [hupdate, hwindow, if_neg (mt (lut_eq_one_iff_mem h).2 (by simp [hl]))]
    rfl
  · rw [hupdate, hwindow, if_pos ((lut_eq_one_iff_mem h).1 hl)]
    rfl
  · rcases hno with hl0 | hsig
    · simp [(lut_eq_zero_iff_mem h).2 hl0] at hl
    · simp [(classify_eq_none_iff s.params c).2 hsig] at hd

/-- Settles O26, by whether the edge polls; a poll pulses by `updateEdge_evValid_iff`. -/
theorem pulseExactlyOnACompletedSignature : Obligations.PulseExactlyOnACompletedSignature := by
  intro s t hr h
  obtain ⟨hhist, hcode, hvalid, hdir, -⟩ := step_command_decoder h hr
  rw [hhist, hcode, hvalid, hdir, ← lut_eq_one_iff_mem]
  by_cases hu : s.ports.cmdUpd = 1#1
  · rw [pollEdge_of_poll hu, updateEdge_evValid_iff]
    refine ⟨by simp [hu], ?_⟩
    rintro ⟨hl, hsig⟩
    obtain ⟨d, hd, hbit⟩ := classify_signature s.params hsig
    have hstep : (decodeSample s.sampleIn s).1 = some d := by rw [decodeSample_sampleIn_fst, if_pos hl, hd]
    obtain ⟨-, hdir, -⟩ := updateEdge_of_step hstep
    exact hdir.trans hbit
  · rw [pollEdge_of_idle hu]
    simp [hu]

/-- Settles O35: only a poll pulses, and `updateEdge_evSpeed` says what it reports. -/
theorem eventSpeedIsTheCurrentSpeedAndNotZero : Obligations.EventSpeedIsTheCurrentSpeedAndNotZero := by
  intro s t hwf hr h hvalid
  obtain ⟨hupd, -⟩ := pulseExactlyOnACompletedSignature s t hr h
  obtain ⟨hu, -⟩ := hupd.1 hvalid
  obtain ⟨-, -, hval, -, hspeed⟩ := step_command_decoder h hr
  rw [hval, pollEdge_of_poll hu] at hvalid
  rw [hspeed, pollEdge_of_poll hu, updateEdge_evSpeed hwf hvalid]
  exact ⟨rfl, by omega⟩

/-! ### The first valid nibble and the last two -/

theorem zero_append_not_signature : ∀ n : Nibble,
    (0x0#4 ++ n : CodeByte) ≠ 0x17#8 ∧ (0x0#4 ++ n : CodeByte) ≠ 0x2B#8 := by decide

/-- From CODE = 0x00 a poll writes at most the first nibble, which is no signature (41_decoder.md R117). -/
theorem updateEdge_of_code_zero {s : State} (h : s.code = 0x00#8) :
    (updateEdge s).evValid = 0#1 ∧
      (updateEdge s).code =
        if lut (updateEdge s).hist = 1#1 then (0x0#4 ++ (updateEdge s).hist : CodeByte) else 0x00#8 := by
  have hcode := updateEdge_code s
  rw [h, accumulate_zero] at hcode
  refine ⟨updateEdge_no_pulse_of_code ?_, hcode⟩
  rw [hcode]
  split
  · exact zero_append_not_signature _
  · decide

/-- Settles O28, by whether the edge is a reset edge, polls or does not poll. -/
theorem noStepAtTheFirstValidTransition : Obligations.NoStepAtTheFirstValidTransition := by
  refine ⟨fun _ _ _ => rfl, zero_append_not_signature, ?_⟩
  intro s t hzero h
  obtain ⟨-, ⟨hr, rfl⟩ | ⟨hr, -⟩⟩ := step_cases h
  · simp [hr]
  · obtain ⟨hhist, hcode, hvalid, -, -⟩ := step_command_decoder h hr
    rw [hhist, hcode, hvalid]
    by_cases hu : s.ports.cmdUpd = 1#1
    · rw [pollEdge_of_poll hu]
      obtain ⟨hpulse, hnibble⟩ := updateEdge_of_code_zero hzero
      refine ⟨hpulse, hnibble.trans (if_congr ?_ rfl rfl)⟩
      rw [lut_eq_one_iff_mem]
      simp [hr, hu]
    · rw [pollEdge_of_idle hu]
      simp [hu, hzero]

/-- Over edges without a reset CODE takes in the valid nibbles of the run, one after the other. -/
theorem drive_code (ps : List Ports) : ∀ {s t : State}, (∀ p ∈ ps, p.rstN = 1#1) → drive ps s = .next t →
    t.code = (validNibbles ps s).foldl accumulate s.code := by
  induction ps with
  | nil =>
    intro s t _ hd
    cases hd
    rfl
  | cons p ps ih =>
    intro s t hr hd
    obtain ⟨u, hu, ht⟩ := drive_cons hd
    have hrst : p.rstN = 1#1 := hr p (.head _)
    obtain ⟨hhist, hcode, -⟩ := step_command_decoder hu hrst
    rw [ih (fun q hq => hr q (.tail _ hq)) ht, validNibbles_cons hu, List.foldl_append, hcode, hhist]
    congr 1
    by_cases hpoll : p.cmdUpd = 1#1
    · rw [pollEdge_of_poll hpoll, updateEdge_code]
      by_cases hl : lut (updateEdge (s.withPorts p)).hist = 1#1 <;> simp [Ports.Polls, hrst, hpoll, hl]
    · rw [pollEdge_of_idle hpoll]
      simp [Ports.Polls, hpoll]

/-- Settles O29: of the nibbles a run takes in, the last two fill CODE. -/
theorem twoValidTransitionsFlushTheCode : Obligations.TwoValidTransitionsFlushTheCode := by
  intro s t ps older a b hr hd hnibbles
  rw [drive_code ps hr hd, hnibbles, List.foldl_append]
  exact accumulate_accumulate _ a b

/-! ### Single glitches -/

theorem append_extractLsb'_low : ∀ a b : Sample, (a ++ b : Nibble).extractLsb' 0 2 = b := by decide

/-- The rows of 41_decoder.md R122: both nibbles are valid, the first ends no signature, and together they are the code,
which is none. -/
theorem glitch_nibbles {rest glitch : Sample} {code : CodeByte}
    (h : (rest, glitch, code) ∈ [(0b00#2, 0b01#2, 0x14#8), (0b00#2, 0b10#2, 0x28#8), (0b11#2, 0b10#2, 0xEB#8),
      (0b11#2, 0b01#2, 0xD7#8)]) :
    lut (rest ++ glitch : Nibble) = 1#1 ∧ lut (glitch ++ rest : Nibble) = 1#1 ∧
      (rest ++ glitch : Nibble) ≠ 0x7#4 ∧ (rest ++ glitch : Nibble) ≠ 0xB#4 ∧
      ((rest ++ glitch : Nibble) ++ (glitch ++ rest : Nibble) : CodeByte) = code ∧ code ≠ 0x17#8 ∧ code ≠ 0x2B#8 := by
  simp only [List.mem_cons, Prod.mk.injEq, List.not_mem_nil, or_false] at h
  rcases h with ⟨rfl, rfl, rfl⟩ | ⟨rfl, rfl, rfl⟩ | ⟨rfl, rfl, rfl⟩ | ⟨rfl, rfl, rfl⟩ <;> decide

/-- The half-step rests of 41_decoder.md R122: the glitch to 11 completes the code of the way there. -/
theorem half_step_glitch_nibbles {rest : Sample} {nibble : Nibble} {code : CodeByte}
    (h : (rest, nibble, code) ∈ [(0b01#2, 0x1#4, 0x17#8), (0b10#2, 0x2#4, 0x2B#8)]) :
    lut (rest ++ 0b11#2 : Nibble) = 1#1 ∧ (nibble ++ (rest ++ 0b11#2 : Nibble) : CodeByte) = code ∧
      (code = 0x17#8 ∨ code = 0x2B#8) := by
  simp only [List.mem_cons, Prod.mk.injEq, List.not_mem_nil, or_false] at h
  rcases h with ⟨rfl, rfl, rfl⟩ | ⟨rfl, rfl, rfl⟩ <;> decide

/-- Settles O30: a glitch and its return fill CODE with two nibbles that make no signature; from a half-step rest the
nibble of the way there and that of the glitch make one. -/
theorem singleGlitchFromRestGivesNoStep : Obligations.SingleGlitchFromRestGivesNoStep := by
  constructor
  · intro s u t p rest glitch code hrow hrest hglitch hu hback ht
    obtain ⟨-, rfl⟩ := exec_next hu
    obtain ⟨-, rfl⟩ := exec_next ht
    simp only [afterCommand] at hback ⊢
    obtain ⟨hvalid, hvalid', h7, hB, hrowcode, hno⟩ := glitch_nibbles hrow
    have huhist : (updateEdge s).hist = (rest ++ glitch : Nibble) := by rw [updateEdge_hist, hrest, hglitch]
    have hthist : (updateEdge ((updateEdge s).withPorts p)).hist = (glitch ++ rest : Nibble) := by
      rw [updateEdge_hist, State.withPorts_hist, huhist, append_extractLsb'_low, hback]
    have hucode : (updateEdge s).code = accumulate s.code (rest ++ glitch) := by
      rw [updateEdge_code, huhist, if_pos hvalid]
    have htcode : (updateEdge ((updateEdge s).withPorts p)).code = code := by
      rw [updateEdge_code, hthist, if_pos hvalid', State.withPorts_code, hucode, accumulate_accumulate, hrowcode]
    rw [← lut_eq_one_iff_mem, ← lut_eq_one_iff_mem, huhist, hthist]
    exact ⟨hvalid, hvalid', updateEdge_no_pulse_of_hist (huhist ▸ h7) (huhist ▸ hB),
      updateEdge_no_pulse_of_code (htcode ▸ hno), htcode⟩
  · intro s rest nibble code hok hrow hrest hnibble hglitch
    obtain ⟨hvalid, hrowcode, hsig⟩ := half_step_glitch_nibbles hrow
    have hhist : (updateEdge s).hist = (rest ++ 0b11#2 : Nibble) := by rw [updateEdge_hist, hrest, hglitch]
    have hcode : (updateEdge s).code = code := by
      rw [updateEdge_code, hhist, if_pos hvalid, accumulate_eq_append, hnibble, hrowcode]
    exact ⟨updateEdge s, exec_of_ok hok .update,
      (updateEdge_evValid_iff s).2 ⟨hhist ▸ hvalid, hcode ▸ hsig⟩, hcode⟩

end Sys2Proof.Machine
end

section
/-! Clean rotation: the pulses of a run are a function of the samples its UPDATEs see, and that function gives one step
for each cycle (41_decoder.md R118). -/

namespace Sys2Proof.Machine

/-! ### The steps of a list of samples -/

/-- The steps that a list of samples completes, from the sample before it and CODE (41_decoder.md R110 to R112). -/
def completedSteps (p : Params) : Sample → CodeByte → List Sample → List Direction
  | _, _, [] => []
  | prev, c, v :: vs =>
    if lut (prev ++ v) = 1#1 then
      (classify p (accumulate c (prev ++ v))).toList ++ completedSteps p v (accumulate c (prev ++ v)) vs
    else completedSteps p v c vs

/-- The directions that the outputs of a run show at its pulses. -/
def pulseDirs (os : List Outputs) : List Bit := (os.filter fun o => o.stepPulse == 1#1).map fun o => o.stepDir

theorem pulseDirs_cons (o : Outputs) (os : List Outputs) :
    pulseDirs (o :: os) = (if o.stepPulse = 1#1 then [o.stepDir] else []) ++ pulseDirs os := by
  by_cases h : o.stepPulse = 1#1 <;> simp [pulseDirs, h]

theorem pulseDir_updateEdge (s : State) :
    (if (updateEdge s).evValid = 1#1 then [(updateEdge s).evDir] else []) =
      (decodeSample s.sampleIn s).1.toList.map Direction.bit := by
  cases hstep : (decodeSample s.sampleIn s).1 with
  | none => simp [updateEdge_of_no_step hstep]
  | some d =>
    obtain ⟨hvalid, hdir, -⟩ := updateEdge_of_step hstep
    simp [hvalid, hdir]

/-- One UPDATE takes the first sample off the list. -/
theorem completedSteps_updateEdge (s : State) (vs : List Sample) :
    completedSteps s.params (s.hist.extractLsb' 0 2) s.code (s.sampleIn :: vs) =
      (decodeSample s.sampleIn s).1.toList ++
        completedSteps s.params ((updateEdge s).hist.extractLsb' 0 2) (updateEdge s).code vs := by
  rw [decodeSample_sampleIn_fst, updateEdge_code, updateEdge_hist, append_extractLsb'_low, completedSteps]
  split <;> rfl

/-- Over edges without a reset the pulses are the steps of the samples polled. -/
theorem pulseDirs_observe (ps : List Ports) : ∀ {s : State} {os : List Outputs}, (∀ p ∈ ps, p.rstN = 1#1) →
    observe ps s = .next os →
      pulseDirs os =
        (completedSteps s.params (s.hist.extractLsb' 0 2) s.code (samplesPolled ps s)).map Direction.bit := by
  induction ps with
  | nil =>
    intro s os _ ho
    cases ho
    rfl
  | cons p ps ih =>
    intro s os hr ho
    obtain ⟨t, os, ht, hos, rfl⟩ := observe_cons ho
    have hrst : p.rstN = 1#1 := hr p (.head _)
    obtain ⟨hhist, hcode, hvalid, hdir, -⟩ := step_command_decoder ht hrst
    rw [pulseDirs_cons, ih (fun q hq => hr q (.tail _ hq)) hos, samplesPolled_cons ht, step_params ht, hhist, hcode]
    simp only [State.outputs, State.withPorts_evValid, State.withPorts_evDir, hvalid, hdir]
    by_cases hpoll : p.cmdUpd = 1#1
    · have hfirst := completedSteps_updateEdge (s.withPorts p) (samplesPolled ps t)
      rw [pollEdge_of_poll hpoll, pulseDir_updateEdge, if_pos ⟨hrst, hpoll⟩, ← List.map_append, ← hfirst]
      rfl
    · rw [pollEdge_of_idle hpoll]
      simp [Ports.Polls, hpoll]

/-! ### Held levels and moves -/

theorem lut_held : ∀ v : Sample, lut (v ++ v) ≠ 1#1 := by decide

/-- A level that is held makes invalid transitions only. -/
theorem completedSteps_held (p : Params) (v : Sample) (c : CodeByte) (n : Nat) (vs : List Sample) :
    completedSteps p v c (List.replicate n v ++ vs) = completedSteps p v c vs := by
  induction n with
  | zero => rfl
  | succ n ih => rw [List.replicate_succ, List.cons_append, completedSteps, if_neg (lut_held v), ih]

/-- A valid move to a level that is then held is one nibble. -/
theorem completedSteps_move {u v : Sample} (h : lut (u ++ v) = 1#1) (p : Params) (c : CodeByte) (n : Nat)
    (vs : List Sample) :
    completedSteps p u c (List.replicate (n + 1) v ++ vs) =
      (classify p (accumulate c (u ++ v))).toList ++ completedSteps p v (accumulate c (u ++ v)) vs := by
  rw [List.replicate_succ, List.cons_append, completedSteps, if_pos h, completedSteps_held]

/-- A valid move whose nibble ends no signature. -/
def SilentMove (u v : Sample) : Prop :=
  lut (u ++ v) = 1#1 ∧ (u ++ v : Nibble) ≠ 0x7#4 ∧ (u ++ v : Nibble) ≠ 0xB#4

theorem completedSteps_silentMove {u v : Sample} (h : SilentMove u v) (p : Params) (c : CodeByte) (n : Nat)
    (vs : List Sample) :
    completedSteps p u c (List.replicate (n + 1) v ++ vs) = completedSteps p v (accumulate c (u ++ v)) vs := by
  obtain ⟨hvalid, h7, hB⟩ := h
  have hnone : classify p (accumulate c (u ++ v)) = none := by
    rw [classify_eq_none_iff, accumulate_eq_append]
    exact append_not_signature _ _ h7 hB
  rw [completedSteps_move hvalid, hnone]
  rfl

/-! ### One cycle -/

/-- The samples of one cycle 00, x, 11, y, 00, each level after the first held for one UPDATE more than the number given
for it. -/
def cycleSamples (x y : Sample) (n : Nat × Nat × Nat × Nat) : List Sample :=
  List.replicate (n.1 + 1) x ++ List.replicate (n.2.1 + 1) 0b11#2 ++ List.replicate (n.2.2.1 + 1) y ++
    List.replicate (n.2.2.2 + 1) 0b00#2

/-- The two orders of a cycle (41_decoder.md R118). -/
def CycleOrder (x y : Sample) : Prop := (x = 0b01#2 ∧ y = 0b10#2) ∨ (x = 0b10#2 ∧ y = 0b01#2)

/-- The direction of the cycle that begins with the move from 00 to x (30_encoding.md R75). -/
def cycleDirection (p : Params) (x : Sample) : Direction :=
  if (x = 0b01#2) = (p.dtHighOnCw = true) then .ccw else .cw

/-- All four moves of a cycle are valid, and only the one to 11 ends a signature. -/
theorem cycle_moves {x y : Sample} (h : CycleOrder x y) :
    SilentMove 0b00#2 x ∧ lut (x ++ 0b11#2) = 1#1 ∧ SilentMove 0b11#2 y ∧ SilentMove y 0b00#2 := by
  unfold SilentMove
  rcases h with ⟨rfl, rfl⟩ | ⟨rfl, rfl⟩ <;> decide

/-- The path 00, x, 11 is the signature of the cycle's direction (30_encoding.md R74). -/
theorem classify_half_cycle {x y : Sample} (h : CycleOrder x y) (p : Params) :
    classify p ((0b00#2 ++ x : Nibble) ++ (x ++ 0b11#2 : Nibble) : CodeByte) = some (cycleDirection p x) := by
  rcases h with ⟨rfl, rfl⟩ | ⟨rfl, rfl⟩ <;> cases hdt : p.dtHighOnCw <;>
    simp [classify, cwSig, ccwSig, cycleDirection, hdt]

/-- A cycle from any CODE completes one step, at the move to 11, and comes back to 00 with its last two nibbles in
CODE. -/
theorem completedSteps_cycle {x y : Sample} (h : CycleOrder x y) (p : Params) (c : CodeByte)
    (n : Nat × Nat × Nat × Nat) (vs : List Sample) :
    completedSteps p 0b00#2 c (cycleSamples x y n ++ vs) =
      cycleDirection p x :: completedSteps p 0b00#2 ((0b11#2 ++ y : Nibble) ++ (y ++ 0b00#2 : Nibble)) vs := by
  obtain ⟨hfirst, hstep, hthird, hlast⟩ := cycle_moves h
  rw [cycleSamples, List.append_assoc, List.append_assoc, List.append_assoc,
    completedSteps_silentMove hfirst, completedSteps_move hstep, accumulate_accumulate, classify_half_cycle h,
    completedSteps_silentMove hthird, completedSteps_silentMove hlast, accumulate_accumulate]
  rfl

theorem completedSteps_cycles {x y : Sample} (h : CycleOrder x y) (p : Params) (cycles : List (Nat × Nat × Nat × Nat)) :
    ∀ c, completedSteps p 0b00#2 c (cycles.flatMap (cycleSamples x y)) =
      List.replicate cycles.length (cycleDirection p x) := by
  induction cycles with
  | nil => intro c; rfl
  | cons n cycles ih =>
    intro c
    rw [List.flatMap_cons, completedSteps_cycle h, ih, List.length_cons, List.replicate_succ]

theorem cycleDirection_bit (p : Params) (x : Sample) :
    (cycleDirection p x).bit = if (x = 0b01#2) = (p.dtHighOnCw = true) then 1#1 else 0#1 := by
  unfold cycleDirection
  split <;> rfl

/-! ### The obligation -/

/-- Settles O31: the pulses are the steps of the samples polled, and those go round in cycles. -/
theorem cleanRotationGivesOneStepPerCycle : Obligations.CleanRotationGivesOneStepPerCycle := by
  intro s ps os k cycles x y _ hr hrest horder hsamples ho
  have hcycles : samplesPolled ps s = List.replicate k 0b00#2 ++ cycles.flatMap (cycleSamples x y) := hsamples
  calc pulseDirs os
      = (completedSteps s.params 0b00#2 s.code (samplesPolled ps s)).map Direction.bit := by
        rw [pulseDirs_observe ps hr ho, hrest]
    _ = (List.replicate cycles.length (cycleDirection s.params x)).map Direction.bit := by
        rw [hcycles, completedSteps_held, completedSteps_cycles horder]
    _ = List.replicate cycles.length (if (x = 0b01#2) = (s.params.dtHighOnCw = true) then 1#1 else 0#1) := by
        rw [List.map_replicate, cycleDirection_bit]

end Sys2Proof.Machine
end

section
/-! The polarity swap as a simulation: a state and the same state of the other polarity, with EV_DIR free, stay so over
every edge, and a pulse has the opposite direction (41_decoder.md R119). -/

namespace Sys2Proof.Machine

/-! ### The other polarity -/

/-- The parameters with the other polarity (00_scope.md R8). -/
def swapPolarity (p : Params) : Params := { p with dtHighOnCw := !p.dtHighOnCw }

/-- The state of the other polarity, with EV_DIR holding `d`. -/
def State.swapped (s : State) (d : Bit) : State := { s with params := swapPolarity s.params, evDir := d }

@[simp] theorem State.swapped_ports (s : State) (d : Bit) : (s.swapped d).ports = s.ports := rfl

/-- The other direction (30_encoding.md R76). -/
def Direction.opposite : Direction → Direction
  | .cw => .ccw
  | .ccw => .cw

theorem opposite_bit (d : Direction) : d.opposite.bit = ~~~d.bit := by cases d <;> decide

theorem cwSig_swapPolarity (p : Params) : cwSig (swapPolarity p) = ccwSig p := by
  cases h : p.dtHighOnCw <;> simp [cwSig, ccwSig, swapPolarity, h]

theorem ccwSig_swapPolarity (p : Params) : ccwSig (swapPolarity p) = cwSig p := by
  cases h : p.dtHighOnCw <;> simp [cwSig, ccwSig, swapPolarity, h]

theorem classify_swapPolarity (p : Params) (c : CodeByte) :
    classify (swapPolarity p) c = (classify p c).map Direction.opposite := by
  have hne := cwSig_ne_ccwSig p
  unfold classify
  rw [cwSig_swapPolarity, ccwSig_swapPolarity]
  split_ifs with hccw hcw hcw
  · exact absurd (hcw.symm.trans hccw) hne
  all_goals rfl

/-! ### The parts of an edge -/

/-- Two states of an edge with and without the swap: the same but for the polarity and EV_DIR, and at a pulse EV_DIR is
inverted. -/
def SwapRelated (t t' : State) : Prop := ∃ d, t' = t.swapped d ∧ (t.evValid = 1#1 → d = ~~~t.evDir)

theorem speedWindow_swapped (now : Nat) (s : State) (d : Bit) :
    speedWindow now (s.swapped d) = (speedWindow now s).swapped d := by
  rcases speedWindow_cases now s with ⟨hle, hw⟩ | ⟨hlt, hw⟩ <;> rw [hw]
  · exact if_pos hle
  · exact if_neg (Nat.not_le.2 hlt)

theorem decodeSample_swapped (smp : Sample) (s : State) (d : Bit) :
    decodeSample smp (s.swapped d) =
      ((decodeSample smp s).1.map Direction.opposite, (decodeSample smp s).2.swapped d) := by
  rcases decodeSample_cases smp s with ⟨hl, hd⟩ | ⟨hl, hd⟩ <;> rw [hd]
  · exact if_pos hl
  · rw [← classify_swapPolarity]
    exact if_neg (hl ▸ by decide)

theorem update_swapped (smp : Sample) (now : Nat) (s : State) (d : Bit) :
    SwapRelated (update smp now s) (update smp now (s.swapped d)) := by
  unfold update
  rw [speedWindow_swapped, decodeSample_swapped]
  rcases decodeSample smp (speedWindow now s) with ⟨_ | dir, s1⟩
  · exact ⟨d, rfl, fun h => absurd h (by simp [stepEvent])⟩
  · exact ⟨dir.opposite.bit, rfl, fun _ => opposite_bit dir⟩

theorem pollEdge_swapped (s : State) (d : Bit) : SwapRelated (pollEdge s) (pollEdge (s.swapped d)) := by
  by_cases hu : s.ports.cmdUpd = 1#1
  · rw [pollEdge_of_poll hu, pollEdge_of_poll (s := s.swapped d) hu]
    exact update_swapped s.sampleIn s.nowIn (s.shiftSync s.capturedPins) d
  · rw [pollEdge_of_idle hu, pollEdge_of_idle (s := s.swapped d) hu]
    exact ⟨d, rfl, fun h => absurd h (by simp)⟩

theorem writeCfg_swapped (a : CfgAddr) (v : CfgWord) (s : State) (d : Bit) :
    writeCfg a v (s.swapped d) = (writeCfg a v s).swapped d := by
  unfold writeCfg
  split_ifs <;> rfl

theorem SwapRelated.writeCfg {t t' : State} (h : SwapRelated t t') (a : CfgAddr) (v : CfgWord) :
    SwapRelated (writeCfg a v t) (writeCfg a v t') := by
  obtain ⟨d, rfl, hdir⟩ := h
  refine ⟨d, writeCfg_swapped a v t d, ?_⟩
  obtain ⟨iv, c, hw⟩ := writeCfg_frame a v t
  rw [hw]
  exact hdir

theorem SwapRelated.nextInputs {t t' : State} (h : SwapRelated t t') : SwapRelated t.nextInputs t'.nextInputs := by
  obtain ⟨d, rfl, hdir⟩ := h
  exact ⟨d, rfl, hdir⟩

theorem resetRegs_swapped (s : State) (d : Bit) : SwapRelated (resetRegs s) (resetRegs (s.swapped d)) :=
  ⟨0#1, rfl, fun h => absurd h (by simp)⟩

theorem afterEdge_swapped (s : State) (d : Bit) : SwapRelated (afterEdge s) (afterEdge (s.swapped d)) := by
  unfold afterEdge
  rw [afterCommand_decode_cmd20, afterCommand_decode_cmd20, State.swapped_ports]
  split_ifs
  · exact (resetRegs_swapped s d).nextInputs
  · exact ((pollEdge_swapped s d).writeCfg _ _).nextInputs
  · exact (pollEdge_swapped s d).nextInputs

theorem step_swapped {s t : State} (h : step s = .next t) (d : Bit) :
    ∃ t', step (s.swapped d) = .next t' ∧ SwapRelated t t' := by
  rw [step_eq_completeEdge] at h
  obtain ⟨hok, rfl⟩ := completeEdge_next h
  exact ⟨_, step_of_ok (s := s.swapped d) hok, afterEdge_swapped s d⟩

/-! ### Runs -/

theorem drive_of_step {p : Ports} {s t : State} (h : step (s.withPorts p) = .next t) (ps : List Ports) :
    drive (p :: ps) s = drive ps t := by
  simp only [drive, h]

theorem observe_of_step {p : Ports} {ps : List Ports} {s t : State} {os : List Outputs}
    (h : step (s.withPorts p) = .next t) (hos : observe ps t = .next os) :
    observe (p :: ps) s = .next ((t.withPorts p).outputs :: os) := by
  simp only [observe, h, hos]

theorem drive_swapped (ps : List Ports) : ∀ {s t : State} (d : Bit), drive ps s = .next t →
    ∃ e, drive ps (s.swapped d) = .next (t.swapped e) := by
  induction ps with
  | nil =>
    intro s t d hd
    cases hd
    exact ⟨d, rfl⟩
  | cons p ps ih =>
    intro s t d hd
    obtain ⟨u, hu, ht⟩ := drive_cons hd
    obtain ⟨_, hu', e, rfl, -⟩ := step_swapped hu d
    rw [drive_of_step (p := p) (s := s.swapped d) hu']
    exact ih e ht

/-- What the swap does to the outputs: at a pulse the direction is inverted, all else is the same (41_decoder.md
R119). -/
def SwappedOutputs (o o' : Outputs) : Prop :=
  o'.stepPulse = o.stepPulse ∧ o'.stepSpeed = o.stepSpeed ∧ o'.padPullupEn = o.padPullupEn ∧ o'.rdData = o.rdData ∧
    (o.stepPulse = 1#1 → o'.stepDir = ~~~o.stepDir)

theorem SwapRelated.outputs {t t' : State} (h : SwapRelated t t') (p : Ports) :
    SwappedOutputs (t.withPorts p).outputs (t'.withPorts p).outputs := by
  obtain ⟨d, rfl, hdir⟩ := h
  exact ⟨rfl, rfl, rfl, rfl, hdir⟩

theorem observe_swapped (ps : List Ports) : ∀ {s : State} {os : List Outputs} (d : Bit), observe ps s = .next os →
    ∃ os', observe ps (s.swapped d) = .next os' ∧ List.Forall₂ SwappedOutputs os os' := by
  induction ps with
  | nil =>
    intro s os d ho
    cases ho
    exact ⟨[], rfl, .nil⟩
  | cons p ps ih =>
    intro s os d ho
    obtain ⟨t, os, ht, hos, rfl⟩ := observe_cons ho
    obtain ⟨t', ht', hrel⟩ := step_swapped ht d
    have houtputs := hrel.outputs p
    obtain ⟨e, rfl, -⟩ := hrel
    obtain ⟨os', hos', hall⟩ := ih e hos
    exact ⟨_, observe_of_step (s := s.swapped d) ht' hos', .cons houtputs hall⟩

/-! ### The obligation -/

/-- Settles O32: the swap commutes with every edge but for EV_DIR, which a pulse writes inverted. -/
theorem polaritySwapInvertsEveryDirection : Obligations.PolaritySwapInvertsEveryDirection := by
  intro ps s t os hd ho swapped
  have hrun := drive_swapped ps s.evDir hd
  have hobserved := observe_swapped ps s.evDir ho
  exact ⟨cwSig_swapPolarity s.params, ccwSig_swapPolarity s.params, hrun, hobserved⟩

end Sys2Proof.Machine
end

section
/-! The speed estimator over an edge, a window and a run from reset (42_speed.md R140 to R150). -/

namespace Sys2Proof.Machine

/-! ### The boundary check and the step accounting of an edge -/

/-- `t` is what an edge makes of the speed registers of `w`, the state its boundary check leaves: a pulse counts, and
makes SPEED 1 where it is 0 (42_speed.md R145, R147). -/
structure Accounts (w t : State) : Prop where
  lastT : t.lastT = w.lastT
  steps : t.steps = (w.steps + t.evValid.toNat) % 2 ^ w.params.stepW
  speed : t.speed = if t.evValid = 1#1 then max 1 w.speed else w.speed

/-- What a pulse reports is settled by the boundary check: the step itself only lifts 0 to 1. -/
theorem Accounts.max_speed {w t : State} (h : Accounts w t) : max 1 t.speed = max 1 w.speed := by
  rw [h.speed]
  split <;> omega

/-- An edge without a pulse that keeps the speed registers. -/
theorem accounts_of_quiet {w t : State} (hw : w.steps < 2 ^ w.params.stepW) (hquiet : t.evValid = 0#1)
    (hlast : t.lastT = w.lastT) (hsteps : t.steps = w.steps) (hspeed : t.speed = w.speed) : Accounts w t :=
  ⟨hlast, by simp [hsteps, hquiet, Nat.mod_eq_of_lt hw], by simp [hspeed, hquiet]⟩

theorem accounts_update (smp : Sample) {now : Nat} {s : State}
    (hw : (speedWindow now s).steps < 2 ^ (speedWindow now s).params.stepW) :
    Accounts (speedWindow now s) (update smp now s) := by
  rcases update_cases smp now s with ⟨-, e⟩ | ⟨-, -, e⟩ | ⟨-, d, -, e⟩ <;> rw [e]
  · exact accounts_of_quiet hw rfl rfl rfl rfl
  · exact accounts_of_quiet hw rfl rfl rfl rfl
  · exact ⟨rfl, rfl, by simp [stepAccount_speed]⟩

theorem speedWindow_shiftSync (now : Nat) (s : State) (pins : Sample) :
    speedWindow now (s.shiftSync pins) = (speedWindow now s).shiftSync pins := by
  rcases speedWindow_cases now s with ⟨hle, hw⟩ | ⟨hlt, hw⟩ <;> rw [hw]
  · exact if_pos hle
  · exact if_neg (Nat.not_le.2 hlt)

theorem accounts_updateEdge {s : State} (hwf : s.Wf) : Accounts (speedWindow s.nowIn s) (updateEdge s) := by
  obtain ⟨-, hsteps, -⟩ := speedWindow_keeps_wf hwf (nowIn_lt s)
  have hwindow := speedWindow_shiftSync s.nowIn s s.capturedPins
  have h := accounts_update s.sampleIn (now := s.nowIn) (s := s.shiftSync s.capturedPins) (by rw [hwindow]; exact hsteps)
  rw [hwindow] at h
  exact ⟨h.lastT, h.steps, h.speed⟩

theorem speedWindow_of_boundary {s : State} (hwf : s.Wf) (hb : s.AtBoundary) :
    speedWindow s.nowIn s =
      s.closeWindow (s.steps * 1000 / s.interval.toNat) (s.ports.nowMs % 2 ^ s.params.timeW) := by
  rw [speedWindow_of_wf hwf, if_pos hb, if_pos hb, if_pos hb]
  rfl

theorem speedWindow_of_no_boundary {s : State} (hwf : s.Wf) (hb : ¬ s.AtBoundary) : speedWindow s.nowIn s = s := by
  rw [speedWindow_of_wf hwf, if_neg hb, if_neg hb, if_neg hb]

/-! ### Non-reset edges -/

/-- The state after the boundary check of the coming edge: only an UPDATE has one (42_speed.md R140). -/
def State.checked (s : State) : State := if s.ports.cmdUpd = 1#1 then speedWindow s.nowIn s else s

theorem checked_of_boundary {s : State} (hwf : s.Wf) (hu : s.ports.cmdUpd = 1#1) (hb : s.AtBoundary) :
    s.checked = s.closeWindow (s.steps * 1000 / s.interval.toNat) (s.ports.nowMs % 2 ^ s.params.timeW) :=
  (if_pos hu).trans (speedWindow_of_boundary hwf hb)

theorem checked_of_no_boundary {s : State} (hwf : s.Wf) (hno : s.ports.cmdUpd = 1#1 → ¬ s.AtBoundary) :
    s.checked = s := by
  unfold State.checked
  split
  next hu => exact speedWindow_of_no_boundary hwf (hno hu)
  next => rfl

theorem accounts_pollEdge {s : State} (hwf : s.Wf) : Accounts s.checked (pollEdge s) := by
  unfold State.checked pollEdge
  split
  · exact accounts_updateEdge hwf
  · obtain ⟨-, hsteps, -⟩ := hwf
    exact accounts_of_quiet hsteps rfl rfl rfl rfl

theorem accounts_step {s t : State} (hwf : s.Wf) (hr : s.ports.rstN = 1#1) (h : step s = .next t) :
    Accounts s.checked t := by
  obtain ⟨iv, c, rfl⟩ := step_command_frame h hr
  obtain ⟨hlast, hsteps, hspeed⟩ := accounts_pollEdge hwf
  exact ⟨hlast, hsteps, hspeed⟩

/-- A pulse reports the SPEED of the boundary check, or 1 where that is 0 (41_decoder.md R116). -/
theorem step_evSpeed {s t : State} (hwf : s.Wf) (hr : s.ports.rstN = 1#1) (h : step s = .next t)
    (hpulse : t.evValid = 1#1) : t.evSpeed = max 1 s.checked.speed := by
  obtain ⟨-, -, hevent⟩ := eventRegistersHoldBetweenSteps s t h
  obtain ⟨hcurrent, -⟩ := hevent hpulse
  rw [hcurrent, (accounts_step hwf hr h).speed, if_pos hpulse]

/-- After a boundary STEPS is the step of its own UPDATE (42_speed.md R142). -/
theorem steps_of_boundary {s t : State} (hwf : s.Wf) (hpolls : s.ports.Polls) (hb : s.AtBoundary)
    (h : step s = .next t) : t.steps = t.evValid.toNat := by
  obtain ⟨hr, hu⟩ := hpolls
  obtain ⟨hstepW, -, -⟩ := (ok_iff _).1 hwf.1
  have hlt : t.evValid.toNat < 2 ^ s.params.stepW :=
    t.evValid.isLt.trans_le (Nat.pow_le_pow_right (by decide) hstepW)
  have hsteps := (accounts_step hwf hr h).steps
  rw [checked_of_boundary hwf hu hb, State.closeWindow_steps, State.closeWindow_params, Nat.zero_add] at hsteps
  exact hsteps.trans (Nat.mod_eq_of_lt hlt)

/-! ### A window -/

/-- The number of pulses that the outputs of a run show. -/
def pulseCount (os : List Outputs) : Nat := (os.filter fun o => o.stepPulse == 1#1).length

theorem pulseCount_cons (o : Outputs) (os : List Outputs) :
    pulseCount (o :: os) = o.stepPulse.toNat + pulseCount os := by
  rcases BitVec.eq_zero_or_eq_one o.stepPulse with h | h
  · simp [pulseCount, h]
  · simp [pulseCount, h, Nat.add_comm]

/-- Within a window STEPS counts the pulses of the run (42_speed.md R145 to R147). -/
theorem steps_of_withinWindow (ps : List Ports) : ∀ {s t : State} {os : List Outputs}, s.Wf → WithinWindow ps s →
    drive ps s = .next t → observe ps s = .next os →
      t.steps = (s.steps + pulseCount os) % 2 ^ s.params.stepW := by
  induction ps with
  | nil =>
    intro s t os hwf _ hd ho
    cases hd
    cases ho
    obtain ⟨-, hsteps, -⟩ := hwf
    exact (Nat.mod_eq_of_lt hsteps).symm
  | cons p ps ih =>
    intro s t os hwf hwin hd ho
    obtain ⟨u, os, hu, hos, rfl⟩ := observe_cons ho
    obtain ⟨hr, hno, hrest⟩ := withinWindow_cons hwin hu
    have hwfp : (s.withPorts p).Wf := withPorts_keeps_wf hwf p
    have hsteps := (accounts_step hwfp hr hu).steps
    rw [checked_of_no_boundary hwfp hno, State.withPorts_steps, State.withPorts_params] at hsteps
    have hparams := step_params hu
    rw [drive_of_step hu] at hd
    calc t.steps = (u.steps + pulseCount os) % 2 ^ u.params.stepW := ih (step_keeps_wf hwfp hu) hrest hd hos
      _ = (s.steps + (u.evValid.toNat + pulseCount os)) % 2 ^ s.params.stepW := by
        rw [hparams, State.withPorts_params, hsteps, Nat.mod_add_mod, Nat.add_assoc]
      _ = (s.steps + pulseCount ((u.withPorts p).outputs :: os)) % 2 ^ s.params.stepW := by
        rw [pulseCount_cons]
        rfl

/-- Within a window every pulse reports the SPEED of its start, or 1 where that is 0 (42_speed.md R148, R149). -/
theorem stepSpeed_of_withinWindow (ps : List Ports) : ∀ {s : State} {os : List Outputs}, s.Wf → WithinWindow ps s →
    observe ps s = .next os → ∀ o ∈ os, o.stepPulse = 1#1 → o.stepSpeed = max 1 s.speed := by
  induction ps with
  | nil =>
    intro s os _ _ ho
    cases ho
    simp
  | cons p ps ih =>
    intro s os hwf hwin ho
    obtain ⟨u, os, hu, hos, rfl⟩ := observe_cons ho
    obtain ⟨hr, hno, hrest⟩ := withinWindow_cons hwin hu
    have hwfp : (s.withPorts p).Wf := withPorts_keeps_wf hwf p
    have hchecked := checked_of_no_boundary hwfp hno
    have hkept := (accounts_step hwfp hr hu).max_speed
    rw [hchecked, State.withPorts_speed] at hkept
    intro o hmem hpulse
    rcases List.mem_cons.1 hmem with rfl | hmem
    · have hreport := step_evSpeed hwfp hr hu hpulse
      rwa [hchecked] at hreport
    · exact (ih (step_keeps_wf hwfp hu) hrest hos o hmem hpulse).trans hkept

/-- Settles O40: STEPS is the count of the window when the boundary UPDATE reads it, and the SPEED it writes lasts,
forced to 1 at most, as long as the next window is open. -/
theorem fullWindowReportsStepsPerSecond : Obligations.FullWindowReportsStepsPerSecond := by
  intro s t u v ps qs p os os' hwf hwin hd ho hfit hpolls hb hu hwin' _ ho'
  constructor
  · intro s₀ p₀ hwf₀ hpolls₀ hb₀ h₀
    exact steps_of_boundary (withPorts_keeps_wf hwf₀ p₀) hpolls₀ hb₀ h₀
  intro speed
  obtain ⟨hr, hupd⟩ := hpolls
  have hcount : t.steps = s.steps + pulseCount os :=
    (steps_of_withinWindow ps hwf hwin hd ho).trans (Nat.mod_eq_of_lt hfit)
  have hwft : (t.withPorts p).Wf :=
    drive_keeps (I := State.Wf) (fun _ q h => withPorts_keeps_wf h q) (fun _ _ => step_keeps_wf) ps s t hwf hd
  have hchecked : (t.withPorts p).checked.speed = speed := by
    rw [checked_of_boundary hwft hupd hb, State.closeWindow_speed, State.withPorts_steps, hcount]
    rfl
  have hedge := accounts_step hwft hr hu
  have hspeed := hedge.speed
  rw [hchecked] at hspeed
  refine ⟨?_, ?_, ?_⟩
  · intro hquiet
    simpa [hquiet] using hspeed
  · intro hpulse
    rw [hspeed, if_pos hpulse, step_evSpeed hwft hr hu hpulse, hchecked]
    exact ⟨rfl, rfl⟩
  · intro o hmem hpulse
    calc o.stepSpeed = max 1 u.speed := stepSpeed_of_withinWindow qs (step_keeps_wf hwft hu) hwin' ho' o hmem hpulse
      _ = max 1 speed := by rw [hedge.max_speed, hchecked]

/-! ### The first step after reset -/

/-- No step has been counted, and every window so far held none (42_speed.md R150). -/
def State.Unstepped (s : State) : Prop := s.Wf ∧ s.steps = 0 ∧ s.speed = 0

/-- A boundary with STEPS = 0 writes 0 to SPEED. -/
theorem checked_of_unstepped {s : State} (hs : s.Unstepped) : s.checked.steps = 0 ∧ s.checked.speed = 0 := by
  obtain ⟨hwf, hsteps, hspeed⟩ := hs
  by_cases hb : s.ports.cmdUpd = 1#1 ∧ s.AtBoundary
  · rw [checked_of_boundary hwf hb.1 hb.2]
    simp [hsteps]
  · rw [checked_of_no_boundary hwf (not_and.1 hb)]
    exact ⟨hsteps, hspeed⟩

/-- The first pulse finds SPEED 0 and reports 1; an edge before it, a reset edge as well, leaves the state unstepped. -/
theorem step_of_unstepped {s t : State} (hs : s.Unstepped) (h : step s = .next t) :
    (t.evValid = 1#1 → t.evSpeed = 1) ∧ (t.evValid = 0#1 → t.Unstepped) := by
  have hwf : s.Wf := hs.1
  have hwf' := step_keeps_wf hwf h
  obtain ⟨-, ⟨-, rfl⟩ | ⟨hr, -⟩⟩ := step_cases h
  · exact ⟨fun hpulse => by simp at hpulse, fun _ => ⟨hwf', rfl, rfl⟩⟩
  · obtain ⟨hsteps, hspeed⟩ := checked_of_unstepped hs
    have hedge := accounts_step hwf hr h
    constructor
    · intro hpulse
      rw [step_evSpeed hwf hr h hpulse, hspeed]
      rfl
    · intro hquiet
      exact ⟨hwf', by simp [hedge.steps, hsteps, hquiet], by simp [hedge.speed, hspeed, hquiet]⟩

theorem first_pulse_of_unstepped (ps : List Ports) : ∀ {s : State} {os : List Outputs} {k : Nat} {o : Outputs},
    s.Unstepped → observe ps s = .next os → os[k]? = some o → o.stepPulse = 1#1 →
      (∀ j o', j < k → os[j]? = some o' → o'.stepPulse = 0#1) → o.stepSpeed = 1 := by
  induction ps with
  | nil =>
    intro s os k o _ ho hk
    cases ho
    simp at hk
  | cons p ps ih =>
    intro s os k o hs ho hk hpulse hbefore
    obtain ⟨t, os, ht, hos, rfl⟩ := observe_cons ho
    obtain ⟨hfirst, hlater⟩ := step_of_unstepped (s := s.withPorts p) hs ht
    cases k with
    | zero =>
      obtain rfl : (t.withPorts p).outputs = o := by simpa using hk
      exact hfirst hpulse
    | succ k =>
      have hquiet : t.evValid = 0#1 := hbefore 0 _ (Nat.succ_pos k) rfl
      exact ih (hlater hquiet) hos hk hpulse fun j o' hj => hbefore (j + 1) o' (Nat.succ_lt_succ hj)

/-- Settles O41: the reset state holds no step, whatever the parameters, which are legal if the run has an edge. -/
theorem firstStepAfterResetReportsOne : Obligations.FirstStepAfterResetReportsOne := by
  intro prm ports pending ps os k o ho hk
  cases ps with
  | nil =>
    cases ho
    simp at hk
  | cons p ps =>
    obtain ⟨t, -, ht, -, -⟩ := observe_cons ho
    have hok : prm.ok = true := (step_cases ht).1
    exact first_pulse_of_unstepped (p :: ps) ⟨afterReset_wf hok ports pending, rfl, rfl⟩ ho hk

/-! ### One edge -/

/-- Settles O36: off a boundary only a pulse writes SPEED, and it changes only a 0. -/
theorem speedChangesOnlyAtBoundaryOrFirstStep : Obligations.SpeedChangesOnlyAtBoundaryOrFirstStep := by
  intro s t hwf hr h hne
  by_cases hb : s.ports.cmdUpd = 1#1 ∧ s.AtBoundary
  · exact ⟨hb.1, .inl hb.2⟩
  · have hspeed := (accounts_step hwf hr h).speed
    rw [checked_of_no_boundary hwf (not_and.1 hb)] at hspeed
    have hpulse : t.evValid = 1#1 := by
      by_contra hquiet
      exact hne (hspeed.trans (if_neg hquiet))
    obtain ⟨hpulses, -⟩ := eventRegistersHoldBetweenSteps s t h
    obtain ⟨-, hu, -⟩ := hpulses.1 hpulse
    rw [if_pos hpulse] at hspeed
    exact ⟨hu, .inr ⟨by omega, by omega, hpulse⟩⟩

/-- Settles O37, by whether the edge is a boundary: the pulse is counted on what the check leaves. -/
theorem stepsCountsThePulsesOfTheWindow : Obligations.StepsCountsThePulsesOfTheWindow := by
  intro s t hwf hr h
  have hsteps := (accounts_step hwf hr h).steps
  by_cases hb : s.ports.cmdUpd = 1#1 ∧ s.AtBoundary
  · rw [checked_of_boundary hwf hb.1 hb.2] at hsteps
    rw [if_pos hb]
    exact hsteps
  · rw [checked_of_no_boundary hwf (not_and.1 hb)] at hsteps
    rw [if_neg hb]
    exact hsteps

/-! ### Time as a difference -/

/-- The state with `now_ms` and LAST_T both `d` later, modulo 2^TIME_W (42_speed.md R143). -/
def State.later (s : State) (d : Nat) : State :=
  { s with lastT := (s.lastT + d) % 2 ^ s.params.timeW, ports := { s.ports with nowMs := s.ports.nowMs + d } }

/-- The later state, with the parameters and the ports of another state that has the same. -/
theorem later_of_frame {s t : State} (hparams : t.params = s.params) (hports : t.ports = s.ports) (d : Nat) :
    t.later d = { t with lastT := (t.lastT + d) % 2 ^ s.params.timeW
                         ports := { s.ports with nowMs := s.ports.nowMs + d } } := by
  rw [← hparams, ← hports]
  rfl

/-- A difference is not changed by moving both times, across a wrap as well. -/
theorem wrapSub_add_add (n a b d : Nat) : wrapSub n ((a + d) % 2 ^ n) ((b + d) % 2 ^ n) = wrapSub n a b := by
  have hofNat : ∀ x, BitVec.ofNat n ((x + d) % 2 ^ n) = BitVec.ofNat n x + BitVec.ofNat n d := by
    intro x
    apply BitVec.eq_of_toNat_eq
    simp
  rw [wrapSub_eq_bitVec_sub, wrapSub_eq_bitVec_sub, hofNat, hofNat, add_sub_add_right_eq_sub]

theorem speedWindow_later (now : Nat) (s : State) (d : Nat) :
    speedWindow ((now + d) % 2 ^ s.params.timeW) (s.later d) = (speedWindow now s).later d := by
  have helapsed : elapsed ((now + d) % 2 ^ s.params.timeW) (s.later d) = elapsed now s :=
    wrapSub_add_add s.params.timeW now s.lastT d
  rcases speedWindow_cases now s with ⟨hle, hw⟩ | ⟨hlt, hw⟩ <;> rw [hw]
  · exact if_pos (helapsed ▸ hle)
  · exact if_neg (helapsed ▸ Nat.not_le.2 hlt)

theorem decodeSample_later (smp : Sample) (s : State) (d : Nat) :
    decodeSample smp (s.later d) = ((decodeSample smp s).1, (decodeSample smp s).2.later d) := by
  rcases decodeSample_cases smp s with ⟨hl, hd⟩ | ⟨hl, hd⟩ <;> rw [hd]
  · exact if_pos hl
  · exact if_neg (hl ▸ by decide)

theorem update_later (smp : Sample) (now : Nat) (s : State) (d : Nat) :
    update smp ((now + d) % 2 ^ s.params.timeW) (s.later d) = (update smp now s).later d := by
  unfold update
  rw [speedWindow_later, decodeSample_later]
  rcases decodeSample smp (speedWindow now s) with ⟨_ | dir, s1⟩ <;> rfl

theorem updateEdge_later (s : State) (d : Nat) : updateEdge (s.later d) = (updateEdge s).later d := by
  have hnow : (s.later d).nowIn = (s.nowIn + d) % 2 ^ s.params.timeW := (Nat.mod_add_mod _ _ _).symm
  rw [updateEdge, hnow]
  exact update_later s.sampleIn s.nowIn (s.shiftSync s.capturedPins) d

/-- Settles O38: `later` commutes with UPDATE, which changes neither the parameters nor the ports. -/
theorem timeCountsOnlyAsADifference : Obligations.TimeCountsOnlyAsADifference := by
  intro s t d _ h
  obtain ⟨hok, rfl⟩ := exec_next h
  obtain ⟨hparams, -, -, -, hports, -⟩ := update_frame s.sampleIn s.nowIn (s.shiftSync s.capturedPins)
  calc exec .update (s.later d) = .next (updateEdge (s.later d)) := exec_of_ok (s := s.later d) hok .update
    _ = .next ((updateEdge s).later d) := by rw [updateEdge_later]
    _ = _ := congrArg Host.Outcome.next (later_of_frame (s := s) hparams hports d)

/-! ### The interval -/

/-- Settles O39: WR_INTERVAL changes no speed register, so UPDATE finds the old window under the new INTERVAL. -/
theorem intervalWriteGovernsTheNextUpdate : Obligations.IntervalWriteGovernsTheNextUpdate := by
  intro s u t wd p hwf hwd hu ht
  obtain ⟨-, hwrite⟩ := exec_next hu
  obtain ⟨-, rfl⟩ := exec_next ht
  have hwfu : (u.withPorts p).Wf := by
    rw [hwrite]
    exact withPorts_keeps_wf (writeCfg_keeps_wf (idleEdge_keeps_wf hwf) 0#2 wd) p
  have hedge : Accounts _ (afterCommand .update (u.withPorts p)) := accounts_updateEdge hwfu
  obtain rfl : u = (idleEdge s).setInterval wd := hwrite.trans (writeCfg_interval hwd _)
  refine ⟨rfl, rfl, ?_, ?_⟩
  · intro hb
    rw [speedWindow_of_boundary hwfu hb] at hedge
    exact ⟨hedge.lastT, hedge.speed⟩
  · intro hlt
    rw [speedWindow_of_no_boundary hwfu (Nat.not_le.2 hlt)] at hedge
    exact hedge.lastT

end Sys2Proof.Machine
end

section
/-! The host operations (43_host_ops.md R160 to R169): each command as an idle edge or an UPDATE followed by its
configuration write, and CTRL as a register that reaches no other. -/

namespace Sys2Proof.Machine

/-! ### Configuration writes as one record update each -/

theorem writeCfg_interval_eq (v : CfgWord) (s : State) :
    writeCfg 0#2 v s = { s with interval := if v = 0#16 then s.interval else v } := by
  by_cases hv : v = 0#16
  · rw [hv, writeCfg_interval_zero, if_pos rfl]
  · rw [writeCfg_interval hv, if_neg hv]
    rfl

theorem writeCfg_ctrl_eq (v : CfgWord) (s : State) :
    writeCfg 1#2 v s = { s with ctrl := (s.ctrl &&& 0xFFFE#16) ||| (v &&& 1#16) } := by
  rw [writeCfg_ctrl, State.setPullup, bit0_setWidth]

theorem reserved_of_eq {a : CfgAddr} (h : a = 2#2 ∨ a = 3#2) : CfgAddr.reserved a = true := by
  rcases h with rfl | rfl <;> rfl

/-! ### The words of the commands without UPDATE -/

theorem upd_and (w m : Cmd20) : (w &&& m).upd = w.upd &&& m.upd := BitVec.extractLsb'_and

theorem we_and (w m : Cmd20) : (w &&& m).we = w.we &&& m.we := BitVec.extractLsb'_and

/-- A word with UPD and WE 0 is a NOP, whatever WA and WD are (30_encoding.md R79). -/
theorem decode_of_upd_we_zero {w : Cmd20} (h : w &&& 0xC0000#20 = 0x00000#20) : decode w = .nop := by
  have hupd : w.upd = 0#1 :=
    calc w.upd = w.upd &&& Cmd20.upd 0xC0000#20 := BitVec.and_allOnes.symm
      _ = 0#1 := by rw [← upd_and, h]; rfl
  have hwe : w.we = 0#1 :=
    calc w.we = w.we &&& Cmd20.we 0xC0000#20 := BitVec.and_allOnes.symm
      _ = 0#1 := by rw [← we_and, h]; rfl
  simp [decode, decodeFields, hupd, hwe]

/-- Bit 16 is the free bit of a reserved address (30_encoding.md R79). -/
theorem decode_wrRsvd_word (a : Bit) (wd : CfgWord) : decode (0b011#3 ++ a ++ wd : Cmd20) = .wrRsvd (1#1 ++ a) wd := by
  rcases (by decide : ∀ b : Bit, b = 0#1 ∨ b = 1#1) a with rfl | rfl
  · exact decode_ofFields 0#1 1#1 2#2 wd
  · exact decode_ofFields 0#1 1#1 3#2 wd

theorem extractLsb'_zero_one (v : CfgWord) : v.extractLsb' 0 1 = if v.getLsbD 0 then 1#1 else 0#1 := by
  have hbit : ∀ b : Bit, b = if b.getLsbD 0 then 1#1 else 0#1 := by decide
  rw [hbit (v.extractLsb' 0 1), BitVec.getLsbD_extractLsb']
  simp

/-! ### Another CTRL before an edge -/

/-- The state with another content of CTRL. -/
def State.withCtrl (s : State) (c : CfgWord) : State := { s with ctrl := c }

@[simp] theorem State.withCtrl_ports (s : State) (c : CfgWord) : (s.withCtrl c).ports = s.ports := rfl

theorem speedWindow_withCtrl (now : Nat) (s : State) (c : CfgWord) :
    speedWindow now (s.withCtrl c) = (speedWindow now s).withCtrl c := by
  rcases speedWindow_cases now s with ⟨hle, hw⟩ | ⟨hlt, hw⟩ <;> rw [hw]
  · exact if_pos hle
  · exact if_neg (Nat.not_le.2 hlt)

theorem decodeSample_withCtrl (smp : Sample) (s : State) (c : CfgWord) :
    decodeSample smp (s.withCtrl c) = ((decodeSample smp s).1, (decodeSample smp s).2.withCtrl c) := by
  rcases decodeSample_cases smp s with ⟨hl, hd⟩ | ⟨hl, hd⟩ <;> rw [hd]
  · exact if_pos hl
  · exact if_neg (hl ▸ by decide)

theorem update_withCtrl (smp : Sample) (now : Nat) (s : State) (c : CfgWord) :
    update smp now (s.withCtrl c) = (update smp now s).withCtrl c := by
  unfold update
  rw [speedWindow_withCtrl, decodeSample_withCtrl]
  rcases decodeSample smp (speedWindow now s) with ⟨_ | d, s1⟩ <;> rfl

theorem pollEdge_withCtrl (s : State) (c : CfgWord) : pollEdge (s.withCtrl c) = (pollEdge s).withCtrl c := by
  by_cases hu : s.ports.cmdUpd = 1#1
  · rw [pollEdge_of_poll hu, pollEdge_of_poll (s := s.withCtrl c) hu]
    exact update_withCtrl s.sampleIn s.nowIn (s.shiftSync s.capturedPins) c
  · rw [pollEdge_of_idle hu, pollEdge_of_idle (s := s.withCtrl c) hu]
    rfl

/-- The write that reads CTRL, `setPullup`, writes CTRL alone. -/
theorem writeCfg_withCtrl (a : CfgAddr) (v : CfgWord) (s : State) (c : CfgWord) :
    ∃ c', writeCfg a v (s.withCtrl c) = (writeCfg a v s).withCtrl c' := by
  unfold writeCfg
  split_ifs
  · exact ⟨c, rfl⟩
  · exact ⟨c, rfl⟩
  · exact ⟨((s.withCtrl c).setPullup (v.extractLsb' 0 1)).ctrl, rfl⟩
  · exact ⟨c, rfl⟩

theorem afterEdge_withCtrl (s : State) (c : CfgWord) :
    ∃ c', afterEdge (s.withCtrl c) = (afterEdge s).withCtrl c' := by
  unfold afterEdge
  rw [afterCommand_decode_cmd20, afterCommand_decode_cmd20, State.withCtrl_ports, pollEdge_withCtrl]
  split_ifs
  · exact ⟨0x0000#16, rfl⟩
  · obtain ⟨c', hw⟩ := writeCfg_withCtrl s.ports.cmdWa s.ports.cmdWd (pollEdge s) c
    exact ⟨c', by rw [hw]; rfl⟩
  · exact ⟨c, rfl⟩

/-! ### The obligations -/

/-- Settles O15: UPD and WE are the masked bits, and the command is the idle edge alone. -/
theorem nopClearsThePulseOnly : Obligations.NopClearsThePulseOnly :=
  ⟨fun _ => decode_of_upd_we_zero, fun _ hok => exec_of_ok hok .nop⟩

/-- Settles O16: the idle edge, and then the write of INTERVAL, which address 0 reads. -/
theorem wrIntervalWritesTheIntervalUnlessZero : Obligations.WrIntervalWritesTheIntervalUnlessZero := by
  refine ⟨fun wd => decode_ofFields 0#1 1#1 0#2 wd, fun s wd hok => ?_⟩
  have hwrite := writeCfg_interval_eq wd (idleEdge s)
  refine ⟨_, exec_of_ok hok (.wrInterval wd), hwrite, ?_⟩
  rw [afterCommand, hwrite]
  rfl

/-- Settles O17: the idle edge, and then the write of CTRL.PULLUP, which address 1 and the pads read. -/
theorem wrCtrlWritesThePullupBit : Obligations.WrCtrlWritesThePullupBit := by
  refine ⟨fun wd => decode_ofFields 0#1 1#1 1#2 wd, fun s wd hok => ?_⟩
  refine ⟨_, exec_of_ok hok (.wrCtrl wd), writeCfg_ctrl_eq wd (idleEdge s), ?_, ?_⟩
  · simp [afterCommand, memRead_writeCfg]
  · rw [afterCommand, writeCfg_ctrl, State.outputs, pullup_setPullup, extractLsb'_zero_one]

/-- Settles O18: at a reserved address the write is nothing, and the reads are 0 in every state. -/
theorem wrRsvdWritesNoRegister : Obligations.WrRsvdWritesNoRegister := by
  refine ⟨decode_wrRsvd_word, fun s wa wd hok hwa => ?_⟩
  refine ⟨_, exec_of_ok hok (.wrRsvd wa wd), writeCfg_reserved (reserved_of_eq hwa) wd (idleEdge s), ?_⟩
  have hread : ∀ t : State, memRead t 2#2 = 0#16 ∧ memRead t 3#2 = 0#16 :=
    fun t => ⟨memRead_reserved rfl t, memRead_reserved rfl t⟩
  obtain ⟨hread2, hread3⟩ := hread s
  exact ⟨hread2, hread3, hread _⟩

/-- Settles O21: another CTRL passes through every part of an edge, and only a write of CTRL reads it. -/
theorem ctrlReachesNoOtherRegister : Obligations.CtrlReachesNoOtherRegister := by
  intro s t c h
  rw [step_eq_completeEdge] at h
  obtain ⟨hok, rfl⟩ := completeEdge_next h
  obtain ⟨c', hedge⟩ := afterEdge_withCtrl s c
  exact ⟨c', (step_of_ok (s := s.withCtrl c) hok).trans (congrArg _ hedge)⟩

/-- Settles O24: UPDATE leaves INTERVAL and CTRL to the write, which acts on the state UPDATE answers. -/
theorem pollAndWriteIsUpdateThenWrite : Obligations.PollAndWriteIsUpdateThenWrite := by
  intro s wa wd hok
  obtain ⟨-, hinterval, hctrl, -⟩ : _ ∧ (updateEdge s).interval = s.interval ∧ (updateEdge s).ctrl = s.ctrl ∧ _ :=
    update_frame s.sampleIn s.nowIn (s.shiftSync s.capturedPins)
  refine ⟨updateEdge s, exec_of_ok hok .update, hinterval, hctrl, ?_, ?_, fun hwa => ?_⟩
  · rw [exec_of_ok hok, afterCommand, writeCfg_interval_eq, hinterval]
  · rw [exec_of_ok hok, afterCommand, writeCfg_ctrl_eq, hctrl]
  · rw [exec_of_ok hok, afterCommand, writeCfg_reserved (reserved_of_eq hwa)]

/-- Settles O19, by the address: with CTRL[15:1] 0 the write of CTRL keeps no bit. -/
theorem writeCfgAtEveryAddress : Obligations.WriteCfgAtEveryAddress := by
  intro a v s hctrl
  by_cases h0 : a = 0#2
  · rw [if_pos h0, h0, writeCfg_interval_eq]
  · by_cases h1 : a = 1#2
    · rw [if_neg h0, if_pos h1, h1, writeCfg_ctrl_eq, hctrl, BitVec.zero_or]
    · rw [if_neg h0, if_neg h1, writeCfg_reserved (reserved_of_ne h0 h1)]

end Sys2Proof.Machine
end

section
/-! No run of legal parameters stops (60_exceptions.md R180). -/

namespace Sys2Proof.Machine

/-- With legal parameters every run is safe: each edge answers a next state, and keeps the parameters for the edges
after it. -/
theorem safeRun_of_ok (ps : List Ports) : ∀ {s : State}, s.params.ok = true → SafeRun ps s := by
  induction ps with
  | nil =>
    intro s _
    exact ⟨s, drive_nil s⟩
  | cons p ps ih =>
    intro s hok
    have hedge : step (s.withPorts p) = .next (afterEdge (s.withPorts p)) := step_of_ok (s := s.withPorts p) hok
    have hkept : (afterEdge (s.withPorts p)).params = s.params :=
      step_params (s := s.withPorts p) hedge
    obtain ⟨t, ht⟩ := ih (hkept.symm ▸ hok)
    exact ⟨t, (drive_of_step hedge ps).trans ht⟩

/-- Settles O7: a run is safe by induction over its edges, and a command completes with the state of `afterCommand`. -/
theorem noInputStopsTheBlock : Obligations.NoInputStopsTheBlock :=
  fun s hok => ⟨fun ps => safeRun_of_ok ps hok, fun i => ⟨afterCommand i s, exec_of_ok hok i⟩⟩

end Sys2Proof.Machine
end

section
/-! The edge as the pseudocode gives it, and reset edges (70_reset_and_hazards.md R200 to R203). -/

namespace Sys2Proof.Machine

/-! ### A non-reset edge -/

/-- The sample of an edge as the pseudocode reads it: the last stage, or the pins where there is no stage. -/
theorem sampleIn_eq_ite (s : State) :
    s.sampleIn = if s.params.syncStages = 0 then s.capturedPins else s.sync.getD (s.params.syncStages - 1) 0#2 := by
  cases hk : s.params.syncStages with
  | zero => rw [if_pos rfl, sampleIn_of_no_stage hk]
  | succ n => rw [if_neg n.succ_ne_zero, sampleIn_of_stages hk, Nat.add_sub_cancel]

/-- A non-reset edge is the poll or idle edge, the configuration write where WE = 1, and the environment's next port
values. -/
theorem afterEdge_of_command {s : State} (hr : s.ports.rstN ≠ 0#1) :
    afterEdge s =
      { (if s.ports.cmdWe = 1#1 then writeCfg s.ports.cmdWa s.ports.cmdWd (pollEdge s) else pollEdge s) with
        ports := s.pending.headD s.ports, pending := s.pending.tail } := by
  obtain ⟨hports, hpending⟩ := afterCommand_environment (decode s.ports.cmd20) s
  rw [afterEdge, if_neg hr, State.nextInputs, hports, hpending, afterCommand_decode_cmd20]

/-! ### Reset edges -/

/-- Every register of `t` holds its reset value in the instance `p`; the environment's part and the capture counter are
free (70_reset_and_hazards.md R201). -/
def State.HoldsReset (t : State) (p : Params) : Prop :=
  ∃ ports pending draws, t = { State.afterReset p ports pending with draws := draws }

/-- A reset edge leads to the reset values of the instance from any state of it. -/
theorem step_holdsReset {s : State} (hok : s.params.ok = true) (hr : s.ports.rstN = 0#1) :
    ∃ t, step s = .next t ∧ t.HoldsReset s.params :=
  ⟨_, step_of_reset hok hr, _, _, _, rfl⟩

theorem State.HoldsReset.params {t : State} {p : Params} (h : t.HoldsReset p) : t.params = p := by
  obtain ⟨ports, pending, draws, rfl⟩ := h
  rfl

/-- The reset values stay over every run of reset edges. -/
theorem drive_holdsReset {p : Params} (hok : p.ok = true) (ps : List Ports) : ∀ {s : State}, s.HoldsReset p →
    (∀ q ∈ ps, q.rstN = 0#1) → ∃ t, drive ps s = .next t ∧ t.HoldsReset p := by
  induction ps with
  | nil =>
    intro s hs _
    exact ⟨s, drive_nil s, hs⟩
  | cons q ps ih =>
    intro s hs hr
    obtain rfl := hs.params
    obtain ⟨u, hu, hres⟩ := step_holdsReset (s := s.withPorts q) hok (hr q List.mem_cons_self)
    obtain ⟨t, ht, htres⟩ := ih hres fun q' hq' => hr q' (List.mem_cons_of_mem q hq')
    exact ⟨t, (drive_of_step hu ps).trans ht, htres⟩

theorem State.HoldsReset.withPorts {t : State} {p : Params} (h : t.HoldsReset p) (q : Ports) :
    (t.withPorts q).HoldsReset p := by
  obtain ⟨ports, pending, draws, rfl⟩ := h
  exact ⟨q, pending, draws, rfl⟩

/-- The read port at the reset values: INTERVAL at address 0, and 0 at CTRL and the reserved addresses. -/
theorem memRead_of_holdsReset {t : State} {p : Params} (h : t.HoldsReset p) (a : CfgAddr) :
    memRead t a = if a = 0#2 then 100#16 else 0#16 := by
  obtain ⟨ports, pending, draws, rfl⟩ := h
  have hpullup : (0x0000#16).extractLsb' 0 1 = 0#1 := by decide
  simp only [memRead, State.pullup, State.afterReset, hpullup, BitVec.setWidth_zero, ite_self]

/-- The outputs at the reset values. -/
theorem outputs_of_holdsReset {t : State} {p : Params} (h : t.HoldsReset p) :
    t.outputs = { stepPulse := 0#1, stepDir := 0#1, stepSpeed := 0, padPullupEn := 0#1,
                  rdData := if t.ports.rdAddr = 0#2 then 100#16 else 0#16 } := by
  rw [State.outputs, memRead_of_holdsReset h]
  obtain ⟨ports, pending, draws, rfl⟩ := h
  rfl

/-! ### The obligations -/

/-- Settles O6: the reset branch is that of `afterEdge`, and the command on the port splits into the poll, which reads
the sample of `sampleIn_eq_ite`, and the write. -/
theorem stepFollowsTheEdgePseudocode : Obligations.StepFollowsTheEdgePseudocode := by
  intro s hok
  rw [step_of_ok hok]
  by_cases hr : s.ports.rstN = 0#1
  · rw [if_pos hr, afterEdge, if_pos hr]
  · rw [if_neg hr, afterEdge_of_command hr, pollEdge, updateEdge, sampleIn_eq_ite]
    rfl

/-- Settles O10: the state after the edge holds the reset values, and the outputs are a function of them. -/
theorem resetEdgeWritesEveryResetValue : Obligations.ResetEdgeWritesEveryResetValue := by
  intro s hok hr
  obtain ⟨t, ht, hres⟩ := step_holdsReset hok hr
  have houtputs := fun a => outputs_of_holdsReset (hres.withPorts { t.ports with rdAddr := a })
  obtain ⟨ports, pending, draws, rfl⟩ := hres
  exact ⟨_, ht, rfl, rfl, rfl, rfl, rfl, rfl, rfl, rfl, rfl, rfl, rfl, houtputs⟩

/-- Settles O11: the first edge of the run leads to the reset values, and the others keep them. -/
theorem heldResetKeepsTheResetValues : Obligations.HeldResetKeepsTheResetValues := by
  intro s ps hok hne hr
  cases ps with
  | nil => exact absurd rfl hne
  | cons q ps =>
    obtain ⟨u, hu, hres⟩ := step_holdsReset (s := s.withPorts q) hok (hr q List.mem_cons_self)
    obtain ⟨t, ht, ports, pending, draws, rfl⟩ :=
      drive_holdsReset hok ps hres fun q' hq' => hr q' (List.mem_cons_of_mem q hq')
    exact ⟨_, (drive_of_step hu ps).trans ht, rfl, rfl, rfl, rfl, rfl, rfl, rfl, rfl, rfl, rfl, rfl, rfl, rfl, rfl⟩

/-- Settles O12: a reset edge reads no register of the state before it, and no pin has been captured at power-up. -/
theorem resetEdgeEndsTheUnknownPowerUpState : Obligations.ResetEdgeEndsTheUnknownPowerUpState :=
  fun p ports pending hok hr => step_of_reset (s := State.powerOn p ports pending) hok hr

end Sys2Proof.Machine
end
